-- ==== Sys2Proof/Word.lean ====
section
/-! DEFINITION. The word types of the CHIP-8 CORE (spec/00_scope.md R8, R10, R11): every value is an unsigned
integer of a stated width, so each is a bit vector of that width. -/

namespace Sys2Proof

/-- An 8-bit value: a general register, a timer, a byte of memory (R8). -/
abbrev Byte := BitVec 8

/-- A 16-bit value: an opcode, the holders of I and PC, a stack entry, `fault_info` (R8, R10). -/
abbrev Word := BitVec 16

/-- A 4-bit field of an opcode: X, Y or N (R10), and with it the name of a register or of a key latch. -/
abbrev Nibble := BitVec 4

/-- The 12-bit field NNN of an opcode (R10). -/
abbrev Addr := BitVec 12

end Sys2Proof
end

