-- ==== Sys2Proof/Config.lean ====
section
/-! DEFINITION. The parameters that an implementation of the CHIP-8 CORE fixes (spec/00_scope.md section 4,
R3 to R6; spec/45_keypad_timers.md R233), and the free values: what the spec leaves open, as constants without a body.
CYCLES_PER_FRAME (R7) is OPEN, has no value, and no rule depends on it: it is no field. -/

namespace Sys2Proof

/-- KEY_PICK (R233, D8): which pressed key `FX0A` reports when several are pressed. -/
inductive KeyPick where
  | lowest      -- the lowest pressed index, the default
  | anyPressed  -- some pressed index: a free value chooses
  deriving DecidableEq, Repr

/-- The parameters of one machine. R39: configuration, not state; no instruction reads them as data and nothing
changes them. -/
structure Config where
  /-- MEM_SIZE (R3): addresses 0 to memSize - 1 exist. 4095 or 4096. -/
  memSize : Nat
  /-- STACK_DEPTH (R4): how many return addresses the stack holds. At least 1. -/
  stackDepth : Nat
  /-- LEGACY_SHIFT (R5): `8XY6` and `8XYE` shift Vy into Vx. -/
  legacyShift : Bool
  /-- FONT (R6): the 80 bytes at 0x50 to 0x9F after reset. -/
  font : List Byte
  /-- KEY_PICK (R233). -/
  keyPick : KeyPick
  deriving DecidableEq, Repr

/-- FREE VALUE (R173, D9, U4; log 6): the random byte that comes with the n-th cycle when the host's script names
none. No body: nothing can be proved of its value, and a statement holds whatever it is. -/
opaque Config.freeRand : Nat → Byte

/-- FREE VALUE (R233, D8, U8; log 7): the choice among the pressed keys that `FX0A` makes in the n-th cycle under
KEY_PICK = any-pressed. No body. -/
opaque Config.freeKeyChoice : Nat → Nat

end Sys2Proof
end

