-- ==== Sys2Proof/Syntax.lean ====
section
/-! DEFINITION. The instructions of the CHIP-8 CORE: one constructor per row of the opcode map, spec/30_encoding.md
R94 (= spec/opcode_table.json), in the table's order. Operands carry the width of their field (R92): X, Y, N are 4 bits,
NN is 8 bits, NNN is 12 bits, all unsigned; the fixed bits of a row are no operand. -/

namespace Sys2Proof

inductive Instr where
  | cls                              -- 00E0  CLS            R210
  | ret                              -- 00EE  RET            R141
  | jp (nnn : Addr)                  -- 1NNN  JP nnn         R142
  | call (nnn : Addr)                -- 2NNN  CALL nnn       R143
  | seImm (x : Nibble) (nn : Byte)   -- 3XNN  SE Vx, nn      R144
  | sneImm (x : Nibble) (nn : Byte)  -- 4XNN  SNE Vx, nn     R145
  | seReg (x y : Nibble)             -- 5XY0  SE Vx, Vy      R146
  | ldImm (x : Nibble) (nn : Byte)   -- 6XNN  LD Vx, nn      R161
  | addImm (x : Nibble) (nn : Byte)  -- 7XNN  ADD Vx, nn     R162
  | ldReg (x y : Nibble)             -- 8XY0  LD Vx, Vy      R163
  | orReg (x y : Nibble)             -- 8XY1  OR Vx, Vy      R164
  | andReg (x y : Nibble)            -- 8XY2  AND Vx, Vy     R165
  | xorReg (x y : Nibble)            -- 8XY3  XOR Vx, Vy     R166
  | addReg (x y : Nibble)            -- 8XY4  ADD Vx, Vy     R167
  | subReg (x y : Nibble)            -- 8XY5  SUB Vx, Vy     R168
  | shr (x y : Nibble)               -- 8XY6  SHR Vx, Vy     R170
  | subnReg (x y : Nibble)           -- 8XY7  SUBN Vx, Vy    R171
  | shl (x y : Nibble)               -- 8XYE  SHL Vx, Vy     R172
  | sneReg (x y : Nibble)            -- 9XY0  SNE Vx, Vy     R147
  | ldI (nnn : Addr)                 -- ANNN  LD I, nnn      R191
  | jpV0 (nnn : Addr)                -- BNNN  JP V0, nnn     R148
  | rnd (x : Nibble) (nn : Byte)     -- CXNN  RND Vx, nn     R173
  | drw (x y n : Nibble)             -- DXYN  DRW Vx, Vy, n  R212
  | skp (x : Nibble)                 -- EX9E  SKP Vx         R230
  | sknp (x : Nibble)                -- EXA1  SKNP Vx        R231
  | ldVxDt (x : Nibble)              -- FX07  LD Vx, DT      R234
  | ldVxK (x : Nibble)               -- FX0A  LD Vx, K       R233
  | ldDtVx (x : Nibble)              -- FX15  LD DT, Vx      R235
  | ldStVx (x : Nibble)              -- FX18  LD ST, Vx      R236
  | addI (x : Nibble)                -- FX1E  ADD I, Vx      R192
  | ldF (x : Nibble)                 -- FX29  LD F, Vx       R193
  | ldB (x : Nibble)                 -- FX33  LD B, Vx       R194
  | stRegs (x : Nibble)              -- FX55  LD [I], Vx     R195
  | ldRegs (x : Nibble)              -- FX65  LD Vx, [I]     R196
  deriving DecidableEq, Repr

end Sys2Proof
end

