-- ==== Sys2Proof/WellFormed.lean ====
section
/-! DEFINITION. Which instructions and which parameter sets are legal.

INSTRUCTIONS: every value of every operand field is legal (spec/10_state.md R20 "every one of the 16 values of X and of
Y is a legal selector"; spec/30_encoding.md R92, R101), and the widths of R92 are in the types of Syntax.lean, so an
operand out of range cannot be written down and no instruction is ill formed.

PARAMETERS: spec/00_scope.md R3, R4, R6 bound three of them; each bound is one check. -/

namespace Sys2Proof

/-- Every instruction of Syntax.lean is well formed (R20, R92, R101). -/
def Instr.wellFormed (_ : Instr) : Bool := true

/-- R3: MEM_SIZE is 4095; "the only other value a model may take is 4096". -/
def Config.memSizeOk (c : Config) : Bool := c.memSize == 4095 || c.memSize == 4096

/-- R4: STACK_DEPTH is at least 1. -/
def Config.stackDepthOk (c : Config) : Bool := decide (1 ≤ c.stackDepth)

/-- R6: FONT is a table of 80 bytes. -/
def Config.fontOk (c : Config) : Bool := c.font.length == 80

/-- A legal set of parameters: all three checks. -/
def Config.wellFormed (c : Config) : Bool := c.memSizeOk && c.stackDepthOk && c.fontOk

end Sys2Proof
end

