-- ==== Sys2Proof/Machine/Params.lean ====
section
/-! DEFINITION. The default parameters of the CHIP-8 CORE (spec/00_scope.md section 4, the table of defaults). -/

namespace Sys2Proof

/-- Glyphs 0 to 7 of the default FONT (spec/10_state.md R29; PRESUMED by the spec itself: general knowledge, log 11). -/
def defaultFontLow : List Byte :=
  [0xF0, 0x90, 0x90, 0x90, 0xF0] ++ [0x20, 0x60, 0x20, 0x20, 0x70] ++
  [0xF0, 0x10, 0xF0, 0x80, 0xF0] ++ [0xF0, 0x10, 0xF0, 0x10, 0xF0] ++
  [0x90, 0x90, 0xF0, 0x10, 0x10] ++ [0xF0, 0x80, 0xF0, 0x10, 0xF0] ++
  [0xF0, 0x80, 0xF0, 0x90, 0xF0] ++ [0xF0, 0x10, 0x20, 0x40, 0x40]

/-- Glyphs 8 to F of the default FONT (R29; log 11). -/
def defaultFontHigh : List Byte :=
  [0xF0, 0x90, 0xF0, 0x90, 0xF0] ++ [0xF0, 0x90, 0xF0, 0x10, 0xF0] ++
  [0xF0, 0x90, 0xF0, 0x90, 0x90] ++ [0xE0, 0x90, 0xE0, 0x90, 0xE0] ++
  [0xF0, 0x80, 0x80, 0x80, 0xF0] ++ [0xE0, 0x90, 0x90, 0x90, 0xE0] ++
  [0xF0, 0x80, 0xF0, 0x80, 0xF0] ++ [0xF0, 0x80, 0xF0, 0x80, 0x80]

/-- The default parameters: MEM_SIZE 4095 (R3), STACK_DEPTH 16 (R4), LEGACY_SHIFT false (R5), FONT as R29 prints it
(R6), KEY_PICK lowest (spec/45_keypad_timers.md R233). -/
def Config.default : Config where
  memSize := 4095
  stackDepth := 16
  legacyShift := false
  font := defaultFontLow ++ defaultFontHigh
  keyPick := .lowest

end Sys2Proof
end

