-- ==== Sys2Proof/Machine/State.lean ====
section
/-! DEFINITION. The state of the CHIP-8 CORE: every piece of state of spec/10_state.md (R20 to R37), as plain data, the
parameters of the machine, and the model's own bookkeeping of the host's script. -/

namespace Sys2Proof.Machine

/-- Memory (R28): the bytes that differ from their reset content, by address, addresses strictly rising (`Memory.wf`).
What an unlisted address reads as is `Config.resetByte` (Ops.lean). -/
abbrev Memory := List Host.Cell

/-- The framebuffer (R31): 32 rows, row y at index y, of 64 pixels, column x at index x; true = on. -/
abbrev Frame := Vector (Vector Bool 64) 32

/-- The causes of a fatal condition (spec/60_exceptions.md R251), with code 0 for "none". -/
inductive FaultCause where
  | none                -- 0: no fatal condition since reset
  | noHandler           -- 1: raised by nothing (R100)
  | unrecognizedSuffix  -- 2: a word outside the opcode map
  | stackOverflow       -- 3: 2NNN on a full stack
  | stackUnderflow      -- 4: 00EE on an empty stack
  | addressOutOfRange   -- 5: fetch, DXYN, FX33, FX55, FX65, BNNN
  | keyIndexOutOfRange  -- 6: EX9E, EXA1 with Vx above 0xF
  deriving DecidableEq, Repr

/-- An event the host can deliver (spec/60_exceptions.md section 4). -/
inductive Event where
  | reset                              -- R290
  | load (k : Nat) (byte : Byte)       -- R76, R294: mem[0x200 + k] <- byte, before the first cycle only
  | cycle (rand : Byte)                -- R126, R127: one instruction, with its random draw
  | tick                               -- R237
  | setKey (k : Nibble) (down : Bool)  -- R262
  | clearRepaint                       -- R263
  | quit                               -- R265
  deriving DecidableEq, Repr

/-- The machine. -/
structure State where
  /-- The parameters (R3 to R6, R233): nothing changes them (R39; log 1). -/
  cfg : Config
  /-- V0 to VF (R20, R21). -/
  v : Vector Byte 16
  /-- The index register I, 12 bits in a 16-bit holder (R22). -/
  i : Word
  /-- The program counter PC, 12 bits in a 16-bit holder (R23). -/
  pc : Word
  /-- The live entries of the return stack, newest first; SP is their number (R25; log 4). -/
  stack : List Word
  /-- The delay timer DT (R26). -/
  dt : Byte
  /-- The sound timer ST (R27). -/
  st : Byte
  /-- Memory (R28). -/
  mem : Memory
  /-- The key latches, true = pressed (R30). -/
  keys : Vector Bool 16
  /-- The framebuffer (R31). -/
  fb : Frame
  /-- `requires_repaint` (R35). -/
  requiresRepaint : Bool
  /-- `running` (R36). -/
  running : Bool
  /-- `halted`, the fault latch's bit (R37). -/
  halted : Bool
  /-- `fault_cause` (R37, R251). -/
  faultCause : FaultCause
  /-- `fault_info` (R37, R251). -/
  faultInfo : Word
  /-- MODEL'S OWN (log 8): a cycle has begun since reset; it closes the host's load window (R76). -/
  started : Bool
  /-- MODEL'S OWN (log 6): the random byte that came with the cycle under way (R127, R173). -/
  rand : Byte
  /-- MODEL'S OWN (log 6): how many cycles have begun; the argument of the free values. -/
  draws : Nat
  /-- MODEL'S OWN (log 5): the events the host has still to deliver, oldest first (R264). -/
  pending : List Event
  deriving DecidableEq, Repr

/-- Why a step could stop with a fault: it never does. A fatal condition is an entry into the halted state, which the
spec describes (R256), so it answers a NEXT state with the fault latch set, and a halted machine takes its cycles and
ticks without effect (R125, R257). R257's advice to treat a halted state as a fault is `State.safe` in Safety.lean
(log 3). The type has no constructor, so "no step faults" holds by typing. -/
inductive Fault where
  deriving DecidableEq, Repr

/-- Why a step can be refused. -/
inductive Refusal where
  /-- Raised by an arm of `exec` whose instruction has no meaning yet; no arm does. Safe: the step stops. -/
  | notModelled (mnemonic : String)
  /-- Raised by the host event `load` after the first cycle, or for an address outside 0x200 to MEM_SIZE - 1: "the
  source gives the host no such move" (R76, R294), "refuse" (spec/93 U11, D28). Never raised by an instruction. Safe:
  the step stops. -/
  | loadOutsideWindow (address : Nat)
  deriving DecidableEq, Repr

/-- What a step answers. -/
abbrev Result := Host.Outcome State Fault Refusal

/-- R38, R290: the state after reset of a machine with parameters `cfg`. -/
def State.resetWith (cfg : Config) : State where
  cfg := cfg
  v := Vector.replicate 16 0x00
  i := 0x000
  pc := 0x200
  stack := []
  dt := 0
  st := 0
  mem := []
  keys := Vector.replicate 16 false
  fb := Vector.replicate 32 (Vector.replicate 64 false)
  requiresRepaint := false
  running := true
  halted := false
  faultCause := .none
  faultInfo := 0
  started := false
  rand := 0
  draws := 0
  pending := []

/-- The machine right after reset (R38), with the default parameters (spec/00_scope.md section 4). -/
def State.reset : State := State.resetWith Config.default

end Sys2Proof.Machine
end

