-- ==== Sys2Proof/Machine/Ops.lean ====
section
/-! DEFINITION. The named operations over memory, registers, the stack, the key latches and the framebuffer, and the
taking of a fatal condition. Every instruction's meaning is written over these. -/

namespace Sys2Proof

open Sys2Proof.Machine

/-- What an address reads as when nothing has been stored there (spec/10_state.md R38): the font at 0x50 to 0x9F
(R29), 0x00 elsewhere. -/
def Config.resetByte (c : Config) (a : Nat) : Byte :=
  if 0x50 ≤ a ∧ a < 0xA0 then c.font.getD (a - 0x50) 0 else 0

end Sys2Proof

namespace Sys2Proof.Machine

/-! ## Narrowing (R11) -/

/-- `n mod 0x1000`, as I and PC hold it (R22, R23). -/
def wrap12 (n : Nat) : Word := BitVec.ofNat 16 (n % 0x1000)

/-! ## Memory (spec/20_memory.md) -/

/-- From address `lo` on, addresses rise strictly, lie below MEM_SIZE, and no entry equals its reset content. -/
def Memory.wfFrom (c : Config) : Nat → Memory → Bool
  | _, [] => true
  | lo, (a, b) :: m =>
    decide (lo ≤ a) && decide (a < c.memSize) && decide (b ≠ c.resetByte a) && Memory.wfFrom c (a + 1) m

/-- The canonical form of memory: equal memories are equal lists. -/
def Memory.wf (c : Config) (m : Memory) : Bool := Memory.wfFrom c 0 m

/-- The byte at an address, whether or not the address exists. -/
def Memory.read (c : Config) : Memory → Nat → Byte
  | [], a => c.resetByte a
  | (a', b) :: m, a => if a = a' then b else Memory.read c m a

/-- List `b` at `a` in front of `m`, unless it is `a`'s reset content. -/
def Memory.enter (c : Config) (a : Nat) (b : Byte) (m : Memory) : Memory :=
  if b = c.resetByte a then m else (a, b) :: m

/-- Store a byte, keeping the canonical form. -/
def Memory.write (c : Config) : Memory → Nat → Byte → Memory
  | [], a, b => Memory.enter c a b []
  | (a', b') :: m, a, b =>
    if a < a' then Memory.enter c a b ((a', b') :: m)
    else if a = a' then Memory.enter c a b m
    else (a', b') :: Memory.write c m a b

/-- Store bytes at ascending addresses from `a` (R63). -/
def Memory.writeBlock (c : Config) : Memory → Nat → List Byte → Memory
  | m, _, [] => m
  | m, a, b :: bs => Memory.writeBlock c (Memory.write c m a b) (a + 1) bs

/-- `MemRead(addr, 1)` (R64): none where it raises AddressOutOfRange. -/
def State.memRead (s : State) (a : Nat) : Option Byte :=
  if a < s.cfg.memSize then some (Memory.read s.cfg s.mem a) else none

/-- `MemWrite(addr, 1, b)` (R65): none where it raises AddressOutOfRange. -/
def State.memWrite (s : State) (a : Nat) (b : Byte) : Option State :=
  if a < s.cfg.memSize then some { s with mem := Memory.write s.cfg s.mem a b } else none

/-- The check that precedes the first access of a block of `n` bytes at `base` (spec/43_index_memory.md R190): if the
highest address is not below MEM_SIZE, the lowest address of the block that is not; else none. A block of no bytes has
no address (spec/44_display.md R212, corner case 1). -/
def State.blockOutOfRange (s : State) (base n : Nat) : Option Nat :=
  if 0 < n ∧ s.cfg.memSize ≤ base + n - 1 then some (max base s.cfg.memSize) else none

/-- The bytes at `base`, `base + 1`, ..., `base + n - 1` (R63), after the check of R190. -/
def State.readBlock (s : State) (base n : Nat) : List Byte :=
  (List.range n).map fun k => Memory.read s.cfg s.mem (base + k)

/-- Store bytes at `base`, `base + 1`, ... (R63), after the check of R190. -/
def State.storeBlock (s : State) (base : Nat) (bs : List Byte) : State :=
  { s with mem := Memory.writeBlock s.cfg s.mem base bs }

/-! ## General registers (R20) -/

/-- `V[x]`. -/
def State.reg (s : State) (x : Nibble) : Byte := s.v[x.toNat]'x.isLt

/-- `V[x] <- b`. -/
def State.setReg (s : State) (x : Nibble) (b : Byte) : State := { s with v := s.v.set x.toNat b x.isLt }

/-- The index of the flag register VF (R21). -/
def vf : Nibble := 0xF

/-- `V[k], V[k+1], ... <-` the bytes, in ascending order (R196). -/
def State.setRegsFrom (s : State) : Nat → List Byte → State
  | _, [] => s
  | k, b :: bs => State.setRegsFrom (s.setReg (BitVec.ofNat 4 k) b) (k + 1) bs

/-- `V[0]` to `V[n-1]`, in ascending order (R195). -/
def State.firstRegs (s : State) (n : Nat) : List Byte := (List.range n).map fun k => s.reg (BitVec.ofNat 4 k)

/-! ## The program counter (R24) -/

/-- Advance past an instruction, and the same advance again for a taken skip (R121, R140):
`PC <- (PC + 2) & 0xFFF`. -/
def State.advance (s : State) : State := { s with pc := wrap12 (s.pc.toNat + 2) }

/-- The rewind of `FX0A` (R233): `PC <- (PC - 2) mod 0x1000`; modulo 0x1000, to subtract 2 is to add 0xFFE. -/
def State.rewind (s : State) : State := { s with pc := wrap12 (0xFFE + s.pc.toNat) }

/-- R140: a conditional skip. -/
def State.skipIf (s : State) (cond : Bool) : State := if cond then s.advance else s

/-! ## The fatal condition (spec/60_exceptions.md R256) -/

/-- The number of a cause (R251). -/
def FaultCause.code : FaultCause → Nat
  | .none => 0
  | .noHandler => 1
  | .unrecognizedSuffix => 2
  | .stackOverflow => 3
  | .stackUnderflow => 4
  | .addressOutOfRange => 5
  | .keyIndexOutOfRange => 6

/-- TAKING A FATAL CONDITION: `raise Fatal(cause, info)`. R256: the instruction commits none of its own writes, so this
starts from the state in which the condition was found; PC keeps the value it has there; `halted`, `fault_cause` and
`fault_info` are written; nothing is saved anywhere else and control goes nowhere. There is no return (R257): only the
host's `reset` event leaves the halted state (Events.lean). -/
def State.raise (s : State) (cause : FaultCause) (info : Word) : State :=
  { s with halted := true, faultCause := cause, faultInfo := info }

/-- `raise Fatal(AddressOutOfRange, a)`. -/
def State.raiseAddress (s : State) (a : Nat) : State := s.raise .addressOutOfRange (BitVec.ofNat 16 a)

/-! ## The return stack (R25, R33, R34) -/

/-- SP: how many entries the stack holds (R25). -/
def State.sp (s : State) : Nat := s.stack.length

/-- `stack[k]`, the entry k from the oldest, if it is live (R25). -/
def State.stackEntry (s : State) (k : Nat) : Option Word := s.stack.reverse[k]?

/-- `Push(w)` (R33): none where it raises StackOverflow. -/
def State.push (s : State) (w : Word) : Option State :=
  if s.cfg.stackDepth ≤ s.sp then none else some { s with stack := w :: s.stack }

/-- `Pop()` (R34): the entry released and the state without it; none where it raises StackUnderflow. -/
def State.pop (s : State) : Option (Word × State) :=
  match s.stack with
  | [] => none
  | w :: rest => some (w, { s with stack := rest })

/-! ## The key latches (R30) -/

/-- `key[k]`. -/
def State.key (s : State) (k : Nibble) : Bool := s.keys[k.toNat]'k.isLt

/-- The pressed keys, in the order of the scan "0x0-0xF" (R233). -/
def State.pressedKeys (s : State) : List Nibble := ((List.range 16).map (BitVec.ofNat 4)).filter s.key

/-- R233: the key that `FX0A` reports among the pressed ones, by KEY_PICK: the lowest index, or one that the free value
of this cycle chooses (log 7). None when no key is pressed. -/
def State.pickKey (s : State) : Option Nibble :=
  match s.cfg.keyPick with
  | .lowest => s.pressedKeys.head?
  | .anyPressed => s.pressedKeys[Config.freeKeyChoice s.draws % s.pressedKeys.length]?

/-! ## The framebuffer (R31) -/

/-- `fb[y][x]`; off outside the 64 by 32 grid. -/
def Frame.get (f : Frame) (x y : Nat) : Bool := if h : x < 64 ∧ y < 32 then f[y][x] else false

/-- `fb[y][x] <- b`; nothing outside the grid. -/
def Frame.put (f : Frame) (x y : Nat) (b : Bool) : Frame :=
  if h : x < 64 ∧ y < 32 then f.set y (f[y].set x b) else f

/-- Every pixel off (R210). -/
def Frame.blank : Frame := Vector.replicate 32 (Vector.replicate 64 false)

/-- R211: whether column `c` (0 to 7) of a sprite row is set; column c is bit 7 - c. -/
def spriteBit (row : Byte) (c : Nat) : Bool := row.getLsbD (7 - c)

/-- A drawing under way: the framebuffer, and whether a lit pixel has been turned off so far (R213). -/
structure Drawing where
  fb : Frame
  collision : Bool
  deriving DecidableEq, Repr

/-- The innermost step of R212: column `c` of the sprite row `row`, drawn at row `r` of the sprite. -/
def Drawing.pixel (ox oy : Nat) (row : Byte) (r c : Nat) (d : Drawing) : Drawing :=
  if spriteBit row c then
    if ox + c ≤ 63 ∧ oy + r ≤ 31 then
      { fb := d.fb.put (ox + c) (oy + r) (!d.fb.get (ox + c) (oy + r))
        collision := d.collision || d.fb.get (ox + c) (oy + r) }
    else d
  else d

/-- R212: the eight columns of one sprite row, c = 0 to 7. -/
def Drawing.row (ox oy : Nat) (row : Byte) (r : Nat) (d : Drawing) : Drawing :=
  (List.range 8).foldl (fun d c => d.pixel ox oy row r c) d

/-- R212: the rows of a sprite, from row `r` on. -/
def Drawing.rows (ox oy : Nat) : List Byte → Nat → Drawing → Drawing
  | [], _, d => d
  | row :: rest, r, d => Drawing.rows ox oy rest (r + 1) (d.row ox oy row r)

end Sys2Proof.Machine
end

