-- ==== Sys2Proof/Machine/Flags.lean ====
section
/-! DEFINITION. Arithmetic and the values of the flag register VF (spec/10_state.md R21, spec/42_arithmetic.md R160).
Operands are read as integers, the result is computed exactly and then narrowed (spec/00_scope.md R11). -/

namespace Sys2Proof.Machine

/-- A flag value is always 0 or 1 (R21). -/
def flagByte (b : Bool) : Byte := if b then 1 else 0

/-- The sum stored: (a + b) mod 256 (R160). -/
def sum8 (a b : Byte) : Byte := BitVec.ofNat 8 ((a.toNat + b.toNat) % 256)
/-- Carry: the true sum exceeds 255 (R160, R167). -/
def carry (a b : Byte) : Bool := decide (255 < a.toNat + b.toNat)

/-- The difference stored: (a - b) mod 256, the exact difference narrowed to 8 bits (R160). -/
def diff8 (a b : Byte) : Byte := BitVec.ofInt 8 ((a.toNat : Int) - (b.toNat : Int))
/-- No borrow: a ≥ b (R160, R168, R171). -/
def noBorrow (a b : Byte) : Bool := decide (b.toNat ≤ a.toNat)

/-- A right shift by one stores a div 2 (R160). -/
def shr8 (a : Byte) : Byte := BitVec.ofNat 8 (a.toNat / 2)
/-- The bit a right shift loses: a mod 2 (R160, R170). -/
def shrOut (a : Byte) : Bool := decide (a.toNat % 2 = 1)

/-- A left shift by one stores (2 a) mod 256 (R160). -/
def shl8 (a : Byte) : Byte := BitVec.ofNat 8 (2 * a.toNat % 256)
/-- The bit a left shift loses: a div 128 (R160, R172). -/
def shlOut (a : Byte) : Bool := decide (a.toNat / 128 = 1)

/-- R169, `8XY4`: the result is written first and the flag second, so with X = 0xF the flag survives. -/
def State.setResultThenFlag (s : State) (x : Nibble) (r : Byte) (f : Bool) : State :=
  (s.setReg x r).setReg vf (flagByte f)

/-- R169, `8XY5`, `8XY6`, `8XY7`, `8XYE`: the flag is written first and the result second, so with X = 0xF the result
survives. -/
def State.setFlagThenResult (s : State) (x : Nibble) (r : Byte) (f : Bool) : State :=
  (s.setReg vf (flagByte f)).setReg x r

end Sys2Proof.Machine
end

