-- ==== Sys2Proof/Machine/Operands.lean ====
section
/-! DEFINITION. The operand forms of the CHIP-8 CORE (spec/30_encoding.md R92, spec/43_index_memory.md R190). Every
operand is read from the state in which execution of the instruction begins (spec/00_scope.md R12); PC there is the
post-advance value (spec/40_cycle.md R121). -/

namespace Sys2Proof.Machine

/-- NNN as a target or an index value: a 12-bit unsigned address at the width of I and PC, `zext_16` (R92). -/
def addrOperand (nnn : Addr) : Word := nnn.setWidth 16

/-- The target of `BNNN` (spec/41_control_flow.md R148): NNN + V[0] over the integers, 0 to 0x10FE. -/
def offsetTarget (s : State) (nnn : Addr) : Nat := nnn.toNat + (s.reg 0).toNat

/-- The source operand of `8XY6` and `8XYE` (spec/42_arithmetic.md R170, R172): V[Y] under LEGACY_SHIFT, else V[X]. -/
def shiftSource (s : State) (x y : Nibble) : Byte := if s.cfg.legacyShift then s.reg y else s.reg x

/-- The base address of a block or a sprite: I, not wrapped (R66, R190). -/
def blockBase (s : State) : Nat := s.i.toNat

/-- How many registers `FX55` and `FX65` move: X is a count as well (R195, R196). -/
def regCount (x : Nibble) : Nat := x.toNat + 1

/-- R193: the address of the font glyph for the whole of a register's value, 0x50 + 5 * Vx. -/
def glyphAddress (b : Byte) : Word := BitVec.ofNat 16 (0x50 + 5 * b.toNat)

/-- R194: the three decimal digits, hundreds, tens, units. -/
def bcdDigits (b : Byte) : List Byte :=
  [BitVec.ofNat 8 (b.toNat / 100), BitVec.ofNat 8 (b.toNat / 10 % 10), BitVec.ofNat 8 (b.toNat % 10)]

/-- R232: the key that a register's value selects; none above 0xF, where EX9E and EXA1 are fatal. -/
def keyIndex (b : Byte) : Option Nibble := if b.toNat ≤ 0xF then some (BitVec.ofNat 4 b.toNat) else none

/-- R212: the column of a sprite's origin, Vx mod 64. -/
def originX (b : Byte) : Nat := b.toNat % 64
/-- R212: the row of a sprite's origin, Vy mod 32. -/
def originY (b : Byte) : Nat := b.toNat % 32

end Sys2Proof.Machine
end

