-- ==== Sys2Proof/Machine/Arithmetic.lean ====
section
/-! DEFINITION. The meanings of the register load, arithmetic, logic, shift and random instructions
(spec/42_arithmetic.md). None of them can raise a fatal condition. Operands are read from `s` before any write
(spec/00_scope.md R12; the spec's decision D4, log 10). -/

namespace Sys2Proof.Machine

/-- R161 `6XNN` LD: `V[X] <- NN`. -/
def execLdImm (x : Nibble) (nn : Byte) (s : State) : Result := .next (s.setReg x nn)

/-- R162 `7XNN` ADD: `V[X] <- (V[X] + NN) mod 256`; no flag. -/
def execAddImm (x : Nibble) (nn : Byte) (s : State) : Result := .next (s.setReg x (sum8 (s.reg x) nn))

/-- R163 `8XY0` LD: `V[X] <- V[Y]`. -/
def execLdReg (x y : Nibble) (s : State) : Result := .next (s.setReg x (s.reg y))

/-- R164 `8XY1` OR; VF is not written as a flag. -/
def execOrReg (x y : Nibble) (s : State) : Result := .next (s.setReg x (s.reg x ||| s.reg y))

/-- R165 `8XY2` AND. -/
def execAndReg (x y : Nibble) (s : State) : Result := .next (s.setReg x (s.reg x &&& s.reg y))

/-- R166 `8XY3` XOR. -/
def execXorReg (x y : Nibble) (s : State) : Result := .next (s.setReg x (s.reg x ^^^ s.reg y))

/-- R167 `8XY4` ADD: the sum, then the carry. -/
def execAddReg (x y : Nibble) (s : State) : Result :=
  .next (s.setResultThenFlag x (sum8 (s.reg x) (s.reg y)) (carry (s.reg x) (s.reg y)))

/-- R168 `8XY5` SUB: no borrow of Vx - Vy, then the difference. -/
def execSubReg (x y : Nibble) (s : State) : Result :=
  .next (s.setFlagThenResult x (diff8 (s.reg x) (s.reg y)) (noBorrow (s.reg x) (s.reg y)))

/-- R170 `8XY6` SHR: the bit shifted out, then the shifted value. -/
def execShr (x y : Nibble) (s : State) : Result :=
  .next (s.setFlagThenResult x (shr8 (shiftSource s x y)) (shrOut (shiftSource s x y)))

/-- R171 `8XY7` SUBN: no borrow of Vy - Vx, then the difference. -/
def execSubnReg (x y : Nibble) (s : State) : Result :=
  .next (s.setFlagThenResult x (diff8 (s.reg y) (s.reg x)) (noBorrow (s.reg y) (s.reg x)))

/-- R172 `8XYE` SHL: the bit shifted out, then the shifted value. -/
def execShl (x y : Nibble) (s : State) : Result :=
  .next (s.setFlagThenResult x (shl8 (shiftSource s x y)) (shlOut (shiftSource s x y)))

/-- R173 `CXNN` RND: `V[X] <- rand & NN`, `rand` being the draw of this cycle (R127; log 6). -/
def execRnd (x : Nibble) (nn : Byte) (s : State) : Result := .next (s.setReg x (s.rand &&& nn))

end Sys2Proof.Machine
end

