-- ==== Sys2Proof/Machine/ControlFlow.lean ====
section
/-! DEFINITION. The meanings of the control-flow instructions (spec/41_control_flow.md). `s.pc` is the post-advance
value: the address of the instruction plus 2 (spec/40_cycle.md R121). -/

namespace Sys2Proof.Machine

/-- R141 `00EE` RET: `PC <- Pop()`; fatal on an empty stack. -/
def execRet (s : State) : Result :=
  match s.pop with
  | none => .next (s.raise .stackUnderflow 0)
  | some (w, t) => .next { t with pc := w }

/-- R142 `1NNN` JP: `PC <- NNN`. -/
def execJp (nnn : Addr) (s : State) : Result := .next { s with pc := addrOperand nnn }

/-- R143 `2NNN` CALL: `Push(PC); PC <- NNN`; fatal on a full stack. -/
def execCall (nnn : Addr) (s : State) : Result :=
  match s.push s.pc with
  | none => .next (s.raise .stackOverflow s.pc)
  | some t => .next { t with pc := addrOperand nnn }

/-- R144 `3XNN` SE: skip if V[X] = NN. -/
def execSeImm (x : Nibble) (nn : Byte) (s : State) : Result := .next (s.skipIf (s.reg x == nn))

/-- R145 `4XNN` SNE: skip if V[X] ≠ NN. -/
def execSneImm (x : Nibble) (nn : Byte) (s : State) : Result := .next (s.skipIf (s.reg x != nn))

/-- R146 `5XY0` SE: skip if V[X] = V[Y]. -/
def execSeReg (x y : Nibble) (s : State) : Result := .next (s.skipIf (s.reg x == s.reg y))

/-- R147 `9XY0` SNE: skip if V[X] ≠ V[Y]. -/
def execSneReg (x y : Nibble) (s : State) : Result := .next (s.skipIf (s.reg x != s.reg y))

/-- R148 `BNNN` JP V0: `PC <- NNN + V[0]`; a sum above 0xFFF is fatal (the spec's decision D3). -/
def execJpV0 (nnn : Addr) (s : State) : Result :=
  if 0xFFF < offsetTarget s nnn then .next (s.raiseAddress (offsetTarget s nnn))
  else .next { s with pc := BitVec.ofNat 16 (offsetTarget s nnn) }

end Sys2Proof.Machine
end

