-- ==== Sys2Proof/Machine/Display.lean ====
section
/-! DEFINITION. The meanings of the display instructions (spec/44_display.md). `requires_repaint` is set by the cycle
after them, not by them (spec/40_cycle.md R124; Cycle.lean). -/

namespace Sys2Proof.Machine

/-- R210 `00E0` CLS: every pixel off. -/
def execCls (s : State) : Result := .next { s with fb := Frame.blank }

/-- R212: the drawing of the N-row sprite at I, from the operands as they stand when the instruction begins. -/
def drawSprite (x y n : Nibble) (s : State) : Drawing :=
  Drawing.rows (originX (s.reg x)) (originY (s.reg y)) (s.readBlock (blockBase s) n.toNat) 0 ⟨s.fb, false⟩

/-- R212, R213 `DXYN` DRW: draw by XOR with clipping; VF is the collision flag. Every row is read, so a sprite whose
data runs past the end of memory is fatal (the spec's decision D21). -/
def execDrw (x y n : Nibble) (s : State) : Result :=
  match s.blockOutOfRange (blockBase s) n.toNat with
  | some a => .next (s.raiseAddress a)
  | none =>
    .next { s.setReg vf (flagByte (drawSprite x y n s).collision) with fb := (drawSprite x y n s).fb }

end Sys2Proof.Machine
end

