-- ==== Sys2Proof/Machine/IndexMemory.lean ====
section
/-! DEFINITION. The meanings of the index-register and memory instructions (spec/43_index_memory.md). A block
instruction checks its whole block before its first access (R190). -/

namespace Sys2Proof.Machine

/-- R191 `ANNN` LD I: `I <- NNN`. -/
def execLdI (nnn : Addr) (s : State) : Result := .next { s with i := addrOperand nnn }

/-- R192 `FX1E` ADD I: `I <- (I + V[X]) mod 0x1000`; no flag. -/
def execAddI (x : Nibble) (s : State) : Result := .next { s with i := wrap12 (s.i.toNat + (s.reg x).toNat) }

/-- R193 `FX29` LD F: `I <- 0x50 + 5 * V[X]`, the whole of V[X] (the spec's decision D26). -/
def execLdF (x : Nibble) (s : State) : Result := .next { s with i := glyphAddress (s.reg x) }

/-- R194 `FX33` LD B: the three decimal digits of V[X] at I, I + 1, I + 2. -/
def execLdB (x : Nibble) (s : State) : Result :=
  match s.blockOutOfRange (blockBase s) 3 with
  | some a => .next (s.raiseAddress a)
  | none => .next (s.storeBlock (blockBase s) (bcdDigits (s.reg x)))

/-- R195 `FX55` LD [I]: V[0] to V[X] at I to I + X, then `I <- (I + X + 1) mod 0x1000`. -/
def execStRegs (x : Nibble) (s : State) : Result :=
  match s.blockOutOfRange (blockBase s) (regCount x) with
  | some a => .next (s.raiseAddress a)
  | none =>
    .next { s.storeBlock (blockBase s) (s.firstRegs (regCount x)) with i := wrap12 (blockBase s + regCount x) }

/-- R196 `FX65` LD Vx, [I]: V[0] to V[X] from I to I + X, then `I <- (I + X + 1) mod 0x1000`. -/
def execLdRegs (x : Nibble) (s : State) : Result :=
  match s.blockOutOfRange (blockBase s) (regCount x) with
  | some a => .next (s.raiseAddress a)
  | none =>
    .next { s.setRegsFrom 0 (s.readBlock (blockBase s) (regCount x)) with i := wrap12 (blockBase s + regCount x) }

end Sys2Proof.Machine
end

