-- ==== Sys2Proof/Machine/KeypadTimers.lean ====
section
/-! DEFINITION. The meanings of the keypad and timer instructions (spec/45_keypad_timers.md). -/

namespace Sys2Proof.Machine

/-- R230, R231: a skip on the latch that V[X] selects, taken when the latch reads `down`; fatal above 0xF (R232). -/
def skipOnKey (x : Nibble) (down : Bool) (s : State) : Result :=
  match keyIndex (s.reg x) with
  | none => .next (s.raise .keyIndexOutOfRange ((s.reg x).setWidth 16))
  | some k => .next (s.skipIf (s.key k == down))

/-- R230 `EX9E` SKP: skip if key[V[X]]. -/
def execSkp (x : Nibble) (s : State) : Result := skipOnKey x true s

/-- R231 `EXA1` SKNP: skip if not key[V[X]]. -/
def execSknp (x : Nibble) (s : State) : Result := skipOnKey x false s

/-- R233 `FX0A` LD Vx, K: a pressed key's index, or, when none is pressed, PC back to this instruction. -/
def execLdVxK (x : Nibble) (s : State) : Result :=
  match s.pickKey with
  | some k => .next (s.setReg x (k.setWidth 8))
  | none => .next s.rewind

/-- R234 `FX07` LD Vx, DT. -/
def execLdVxDt (x : Nibble) (s : State) : Result := .next (s.setReg x s.dt)

/-- R235 `FX15` LD DT, Vx. -/
def execLdDtVx (x : Nibble) (s : State) : Result := .next { s with dt := s.reg x }

/-- R236 `FX18` LD ST, Vx. -/
def execLdStVx (x : Nibble) (s : State) : Result := .next { s with st := s.reg x }

end Sys2Proof.Machine
end

