-- ==== Sys2Proof/Decode.lean ====
section
/-! DEFINITION. Decoding and encoding (spec/30_encoding.md).

The decoder is total: two bytes make an opcode, high byte first (R62, R90), and an opcode is one of the 34 instructions
or is rejected by name (R93, R99). The encoder stands below it, written from the rows of R94. -/

namespace Sys2Proof

/-! ## The fields of an opcode (R10, R92) -/

/-- `N3 = op[15:12]`, the family selector. -/
def Opcode.family (op : Word) : Nibble := op.extractLsb' 12 4
/-- `X = op[11:8]`. -/
def Opcode.x (op : Word) : Nibble := op.extractLsb' 8 4
/-- `Y = op[7:4]`. -/
def Opcode.y (op : Word) : Nibble := op.extractLsb' 4 4
/-- `N = op[3:0]`. -/
def Opcode.n (op : Word) : Nibble := op.extractLsb' 0 4
/-- `NN = op[7:0]`. -/
def Opcode.nn (op : Word) : Byte := op.extractLsb' 0 8
/-- `NNN = op[11:0]`. -/
def Opcode.nnn (op : Word) : Addr := op.extractLsb' 0 12

/-- R62, R90: the byte at the lower address is the high byte of the opcode. -/
def Opcode.ofBytes (hi lo : Byte) : Word := hi ++ lo
/-- The byte of an opcode that stands at the lower address (R62). -/
def Opcode.hiByte (op : Word) : Byte := op.extractLsb' 8 8
/-- The byte of an opcode that stands at the higher address (R62). -/
def Opcode.loByte (op : Word) : Byte := op.extractLsb' 0 8

/-! ## The decoder -/

/-- Why a word or a byte string is no instruction. -/
inductive DecodeError where
  | truncated                       -- fewer than two bytes (R90: every instruction is two bytes)
  | noHandler (op : Word)           -- no instruction in the word's family: cannot occur (R100)
  | unrecognizedSuffix (op : Word)  -- a word outside the rows of R94 (R99)
  deriving DecidableEq, Repr

/-- Family 0: exactly `00E0` and `00EE` (R95). -/
def decodeFamily0 (op : Word) : Except DecodeError Instr :=
  match (Opcode.nnn op).toNat with
  | 0x0E0 => .ok .cls
  | 0x0EE => .ok .ret
  | _ => .error (.unrecognizedSuffix op)

/-- Families 5 and 9: one instruction each, with suffix N0 = 0 (R96). -/
def decodeSuffixZero (i : Nibble → Nibble → Instr) (op : Word) : Except DecodeError Instr :=
  match (Opcode.n op).toNat with
  | 0x0 => .ok (i (Opcode.x op) (Opcode.y op))
  | _ => .error (.unrecognizedSuffix op)

/-- Family 8: nine instructions, selected by N0 (R97). -/
def decodeFamily8 (op : Word) : Except DecodeError Instr :=
  match (Opcode.n op).toNat with
  | 0x0 => .ok (.ldReg (Opcode.x op) (Opcode.y op))
  | 0x1 => .ok (.orReg (Opcode.x op) (Opcode.y op))
  | 0x2 => .ok (.andReg (Opcode.x op) (Opcode.y op))
  | 0x3 => .ok (.xorReg (Opcode.x op) (Opcode.y op))
  | 0x4 => .ok (.addReg (Opcode.x op) (Opcode.y op))
  | 0x5 => .ok (.subReg (Opcode.x op) (Opcode.y op))
  | 0x6 => .ok (.shr (Opcode.x op) (Opcode.y op))
  | 0x7 => .ok (.subnReg (Opcode.x op) (Opcode.y op))
  | 0xE => .ok (.shl (Opcode.x op) (Opcode.y op))
  | _ => .error (.unrecognizedSuffix op)

/-- Family E: two instructions, selected by NN (R98). -/
def decodeFamilyE (op : Word) : Except DecodeError Instr :=
  match (Opcode.nn op).toNat with
  | 0x9E => .ok (.skp (Opcode.x op))
  | 0xA1 => .ok (.sknp (Opcode.x op))
  | _ => .error (.unrecognizedSuffix op)

/-- Family F: nine instructions, selected by NN (R98). -/
def decodeFamilyF (op : Word) : Except DecodeError Instr :=
  match (Opcode.nn op).toNat with
  | 0x07 => .ok (.ldVxDt (Opcode.x op))
  | 0x0A => .ok (.ldVxK (Opcode.x op))
  | 0x15 => .ok (.ldDtVx (Opcode.x op))
  | 0x18 => .ok (.ldStVx (Opcode.x op))
  | 0x1E => .ok (.addI (Opcode.x op))
  | 0x29 => .ok (.ldF (Opcode.x op))
  | 0x33 => .ok (.ldB (Opcode.x op))
  | 0x55 => .ok (.stRegs (Opcode.x op))
  | 0x65 => .ok (.ldRegs (Opcode.x op))
  | _ => .error (.unrecognizedSuffix op)

/-- R93, R122: the family by the top nibble, then the instruction by the suffix inside the family. The last arm is the
source's "no handler is registered for a family"; all sixteen families have one, so it is never taken (R100). -/
def decodeWord (op : Word) : Except DecodeError Instr :=
  match (Opcode.family op).toNat with
  | 0x0 => decodeFamily0 op
  | 0x1 => .ok (.jp (Opcode.nnn op))
  | 0x2 => .ok (.call (Opcode.nnn op))
  | 0x3 => .ok (.seImm (Opcode.x op) (Opcode.nn op))
  | 0x4 => .ok (.sneImm (Opcode.x op) (Opcode.nn op))
  | 0x5 => decodeSuffixZero .seReg op
  | 0x6 => .ok (.ldImm (Opcode.x op) (Opcode.nn op))
  | 0x7 => .ok (.addImm (Opcode.x op) (Opcode.nn op))
  | 0x8 => decodeFamily8 op
  | 0x9 => decodeSuffixZero .sneReg op
  | 0xA => .ok (.ldI (Opcode.nnn op))
  | 0xB => .ok (.jpV0 (Opcode.nnn op))
  | 0xC => .ok (.rnd (Opcode.x op) (Opcode.nn op))
  | 0xD => .ok (.drw (Opcode.x op) (Opcode.y op) (Opcode.n op))
  | 0xE => decodeFamilyE op
  | 0xF => decodeFamilyF op
  | _ => .error (.noHandler op)

/-- Decode the instruction at the head of a byte string and give back the rest (R62, R90). -/
def decode : List Byte → Except DecodeError (Instr × List Byte)
  | hi :: lo :: rest =>
    match decodeWord (Opcode.ofBytes hi lo) with
    | .ok i => .ok (i, rest)
    | .error e => .error e
  | _ => .error .truncated

/-! ## The encoder (the rows of R94) -/

/-- Format NNN (R91): family and a 12-bit address. -/
def wordNNN (family : Nibble) (nnn : Addr) : Word := family ++ nnn
/-- Format XNN (R91): family, X and an 8-bit immediate. -/
def wordXNN (family x : Nibble) (nn : Byte) : Word := family ++ x ++ nn
/-- Formats XYS and XYN (R91): four nibbles. -/
def wordXYN (family x y n : Nibble) : Word := family ++ x ++ y ++ n

/-- The word of an instruction. Formats FIX and XSS are written with the same builders: their suffix stands where NNN
or NN stands. -/
def encode : Instr → Word
  | .cls => wordNNN 0x0 0x0E0
  | .ret => wordNNN 0x0 0x0EE
  | .jp nnn => wordNNN 0x1 nnn
  | .call nnn => wordNNN 0x2 nnn
  | .seImm x nn => wordXNN 0x3 x nn
  | .sneImm x nn => wordXNN 0x4 x nn
  | .seReg x y => wordXYN 0x5 x y 0x0
  | .ldImm x nn => wordXNN 0x6 x nn
  | .addImm x nn => wordXNN 0x7 x nn
  | .ldReg x y => wordXYN 0x8 x y 0x0
  | .orReg x y => wordXYN 0x8 x y 0x1
  | .andReg x y => wordXYN 0x8 x y 0x2
  | .xorReg x y => wordXYN 0x8 x y 0x3
  | .addReg x y => wordXYN 0x8 x y 0x4
  | .subReg x y => wordXYN 0x8 x y 0x5
  | .shr x y => wordXYN 0x8 x y 0x6
  | .subnReg x y => wordXYN 0x8 x y 0x7
  | .shl x y => wordXYN 0x8 x y 0xE
  | .sneReg x y => wordXYN 0x9 x y 0x0
  | .ldI nnn => wordNNN 0xA nnn
  | .jpV0 nnn => wordNNN 0xB nnn
  | .rnd x nn => wordXNN 0xC x nn
  | .drw x y n => wordXYN 0xD x y n
  | .skp x => wordXNN 0xE x 0x9E
  | .sknp x => wordXNN 0xE x 0xA1
  | .ldVxDt x => wordXNN 0xF x 0x07
  | .ldVxK x => wordXNN 0xF x 0x0A
  | .ldDtVx x => wordXNN 0xF x 0x15
  | .ldStVx x => wordXNN 0xF x 0x18
  | .addI x => wordXNN 0xF x 0x1E
  | .ldF x => wordXNN 0xF x 0x29
  | .ldB x => wordXNN 0xF x 0x33
  | .stRegs x => wordXNN 0xF x 0x55
  | .ldRegs x => wordXNN 0xF x 0x65

/-- The two bytes of an instruction in memory order (R62). -/
def encodeBytes (i : Instr) : List Byte := [Opcode.hiByte (encode i), Opcode.loByte (encode i)]

/-! ## The opcode map of R94, as data -/

/-- One row of R94: an opcode belongs to it when `op & mask = match`. -/
structure OpcodeRow where
  mask : Word
  pattern : Word
  deriving DecidableEq, Repr

/-- `op & mask = match`. -/
def OpcodeRow.selects (r : OpcodeRow) (op : Word) : Bool := op &&& r.mask == r.pattern

/-- Rows 1 to 9 of R94. -/
def opcodeRows1 : List OpcodeRow :=
  [⟨0xFFFF, 0x00E0⟩, ⟨0xFFFF, 0x00EE⟩, ⟨0xF000, 0x1000⟩, ⟨0xF000, 0x2000⟩, ⟨0xF000, 0x3000⟩, ⟨0xF000, 0x4000⟩,
   ⟨0xF00F, 0x5000⟩, ⟨0xF000, 0x6000⟩, ⟨0xF000, 0x7000⟩]
/-- Rows 10 to 19 of R94. -/
def opcodeRows2 : List OpcodeRow :=
  [⟨0xF00F, 0x8000⟩, ⟨0xF00F, 0x8001⟩, ⟨0xF00F, 0x8002⟩, ⟨0xF00F, 0x8003⟩, ⟨0xF00F, 0x8004⟩, ⟨0xF00F, 0x8005⟩,
   ⟨0xF00F, 0x8006⟩, ⟨0xF00F, 0x8007⟩, ⟨0xF00F, 0x800E⟩, ⟨0xF00F, 0x9000⟩]
/-- Rows 20 to 34 of R94. -/
def opcodeRows3 : List OpcodeRow :=
  [⟨0xF000, 0xA000⟩, ⟨0xF000, 0xB000⟩, ⟨0xF000, 0xC000⟩, ⟨0xF000, 0xD000⟩, ⟨0xF0FF, 0xE09E⟩, ⟨0xF0FF, 0xE0A1⟩,
   ⟨0xF0FF, 0xF007⟩, ⟨0xF0FF, 0xF00A⟩, ⟨0xF0FF, 0xF015⟩, ⟨0xF0FF, 0xF018⟩, ⟨0xF0FF, 0xF01E⟩, ⟨0xF0FF, 0xF029⟩,
   ⟨0xF0FF, 0xF033⟩, ⟨0xF0FF, 0xF055⟩, ⟨0xF0FF, 0xF065⟩]
/-- The 34 rows of R94. -/
def opcodeMap : List OpcodeRow := opcodeRows1 ++ opcodeRows2 ++ opcodeRows3

/-- The row of R94 an instruction stands for. -/
def Instr.row : Instr → OpcodeRow
  | .cls => ⟨0xFFFF, 0x00E0⟩
  | .ret => ⟨0xFFFF, 0x00EE⟩
  | .jp _ => ⟨0xF000, 0x1000⟩
  | .call _ => ⟨0xF000, 0x2000⟩
  | .seImm _ _ => ⟨0xF000, 0x3000⟩
  | .sneImm _ _ => ⟨0xF000, 0x4000⟩
  | .seReg _ _ => ⟨0xF00F, 0x5000⟩
  | .ldImm _ _ => ⟨0xF000, 0x6000⟩
  | .addImm _ _ => ⟨0xF000, 0x7000⟩
  | .ldReg _ _ => ⟨0xF00F, 0x8000⟩
  | .orReg _ _ => ⟨0xF00F, 0x8001⟩
  | .andReg _ _ => ⟨0xF00F, 0x8002⟩
  | .xorReg _ _ => ⟨0xF00F, 0x8003⟩
  | .addReg _ _ => ⟨0xF00F, 0x8004⟩
  | .subReg _ _ => ⟨0xF00F, 0x8005⟩
  | .shr _ _ => ⟨0xF00F, 0x8006⟩
  | .subnReg _ _ => ⟨0xF00F, 0x8007⟩
  | .shl _ _ => ⟨0xF00F, 0x800E⟩
  | .sneReg _ _ => ⟨0xF00F, 0x9000⟩
  | .ldI _ => ⟨0xF000, 0xA000⟩
  | .jpV0 _ => ⟨0xF000, 0xB000⟩
  | .rnd _ _ => ⟨0xF000, 0xC000⟩
  | .drw _ _ _ => ⟨0xF000, 0xD000⟩
  | .skp _ => ⟨0xF0FF, 0xE09E⟩
  | .sknp _ => ⟨0xF0FF, 0xE0A1⟩
  | .ldVxDt _ => ⟨0xF0FF, 0xF007⟩
  | .ldVxK _ => ⟨0xF0FF, 0xF00A⟩
  | .ldDtVx _ => ⟨0xF0FF, 0xF015⟩
  | .ldStVx _ => ⟨0xF0FF, 0xF018⟩
  | .addI _ => ⟨0xF0FF, 0xF01E⟩
  | .ldF _ => ⟨0xF0FF, 0xF029⟩
  | .ldB _ => ⟨0xF0FF, 0xF033⟩
  | .stRegs _ => ⟨0xF0FF, 0xF055⟩
  | .ldRegs _ => ⟨0xF0FF, 0xF065⟩

/-! ## The host's view of the decoder -/

/-- The instruction the decoder reads from the word `w` of `nbits` bits, bit 0 its least significant: the bits of the
word above `nbits` are 0, and its two bytes go to the decoder high byte first (R62). A number that needs more than the
16 bits of R90 is no instruction. -/
def decodeTableWord (nbits w : Nat) : Option Instr :=
  let op := w % 2 ^ nbits
  if op < 0x10000 then
    match decode [Opcode.hiByte (BitVec.ofNat 16 op), Opcode.loByte (BitVec.ofNat 16 op)] with
    | .ok (i, _) => some i
    | .error _ => none
  else none

end Sys2Proof
end

