-- ==== Sys2Proof/Machine/Fetch.lean ====
section
/-! DEFINITION. Instruction fetch (spec/40_cycle.md R120), and the placing of a word where the next fetch finds it. -/

namespace Sys2Proof.Machine

/-- What a fetch gives: the two bytes at PC and PC + 1, or the first address that does not exist. -/
inductive Fetched where
  | bytes (hi lo : Byte)
  | outOfRange (a : Nat)
  deriving DecidableEq, Repr

/-- R120: the byte at PC, then the byte at PC + 1, which is formed without wrapping (R66). -/
def State.fetch (s : State) : Fetched :=
  match s.memRead s.pc.toNat with
  | none => .outOfRange s.pc.toNat
  | some hi =>
    match s.memRead (s.pc.toNat + 1) with
    | none => .outOfRange (s.pc.toNat + 1)
    | some lo => .bytes hi lo

/-- Store a byte where the address exists; nothing elsewhere. -/
def State.poke (s : State) (a : Nat) (b : Byte) : State := (s.memWrite a b).getD s

/-- `s` with the word `w` of `nbits` bits (the bits above are 0) at PC, high byte first, and what a fetch needs besides:
no host event comes first, and the machine is not halted (log 9). -/
def State.placeWord (s : State) (nbits w : Nat) : State :=
  let op : Word := BitVec.ofNat 16 (w % 2 ^ nbits)
  { (s.poke s.pc.toNat (Opcode.hiByte op)).poke (s.pc.toNat + 1) (Opcode.loByte op) with
    pending := [], halted := false, faultCause := .none, faultInfo := 0 }

end Sys2Proof.Machine
end

