-- ==== Sys2Proof/Machine/Cycle.lean ====
section
/-! DEFINITION. The cycle event (spec/40_cycle.md R126): fetch, advance, decode, execute, repaint flag. -/

namespace Sys2Proof.Machine

/-- The cause that a decoding failure raises (spec/60_exceptions.md R251, R252). A word is never truncated. -/
def causeOf : DecodeError → FaultCause
  | .truncated => .unrecognizedSuffix
  | .noHandler _ => .noHandler
  | .unrecognizedSuffix _ => .unrecognizedSuffix

/-- R124: the instructions after which the framebuffer could have changed, by identity. -/
def setsRepaint : Instr → Bool
  | .cls | .drw _ _ _ => true
  | .ret | .jp _ | .call _ | .jpV0 _ | .seImm _ _ | .sneImm _ _ | .seReg _ _ | .sneReg _ _ => false
  | .ldImm _ _ | .addImm _ _ | .ldReg _ _ | .orReg _ _ | .andReg _ _ | .xorReg _ _ | .addReg _ _ => false
  | .subReg _ _ | .shr _ _ | .subnReg _ _ | .shl _ _ | .rnd _ _ => false
  | .ldI _ | .addI _ | .ldF _ | .ldB _ | .stRegs _ | .ldRegs _ => false
  | .skp _ | .sknp _ | .ldVxDt _ | .ldVxK _ | .ldDtVx _ | .ldStVx _ => false

/-- R124, R126: after CLS or DRW `requires_repaint <- true`, unless the instruction raised a fatal condition; after any
other instruction the flag is left as it was. -/
def afterExecute (i : Instr) (s : State) : State :=
  if setsRepaint i ∧ s.halted = false then { s with requiresRepaint := true } else s

/-- Execute the instruction `i` from the post-advance state (R123, R124). -/
def runInstr (i : Instr) (s : State) : Result :=
  match exec i s with
  | .next t => .next (afterExecute i t)
  | .fault r => .fault r
  | .refused r => .refused r

/-- Decode and run the fetched word (R121, R122): PC is advanced before decoding, and the advance stands even if
decoding or execution then raises a fatal condition (R128). -/
def runWord (op : Word) (s : State) : Result :=
  match decodeWord op with
  | .ok i => runInstr i s.advance
  | .error e => .next (s.advance.raise (causeOf e) op)

/-- The model's own bookkeeping at the start of a cycle: the draw `rand` is there to be read (R127), the next cycle's
free values are others (log 6), and the host's load window is closed (R76; log 8). -/
def State.beginCycle (s : State) (rand : Byte) : State :=
  { s with rand := rand, draws := s.draws + 1, started := true }

/-- R126: `cycle(rand)`. A halted machine does nothing (R125). A failed fetch leaves PC alone (R128). -/
def cycle (rand : Byte) (s : State) : Result :=
  if s.halted then .next s
  else
    match s.fetch with
    | .outOfRange a => .next ((s.beginCycle rand).raiseAddress a)
    | .bytes hi lo => runWord (Opcode.ofBytes hi lo) (s.beginCycle rand)

end Sys2Proof.Machine
end

