-- ==== Sys2Proof/Machine/Events.lean ====
section
/-! DEFINITION. The host's events (spec/60_exceptions.md section 4), the timer tick (spec/45_keypad_timers.md R237), the
reset event (spec/70_reset_and_hazards.md R290), and the outputs the host reads (R266). -/

namespace Sys2Proof.Machine

/-- R237: count a timer down, not below zero. -/
def countDown (t : Byte) : Byte := if 0 < t.toNat then BitVec.ofNat 8 (t.toNat - 1) else t

/-- R237: the tick; nothing when halted (R257). -/
def State.tick (s : State) : State :=
  if s.halted then s else { s with dt := countDown s.dt, st := countDown s.st }

/-- R290: every piece of the spec's state takes its reset value (R38), and the fault latch is cleared, which is the only
way out of the halted state (R257). The parameters stay (R39), and so do the host's script and the count of draws, so
that no free value comes twice (log 6). -/
def State.resetEvent (s : State) : State :=
  { State.resetWith s.cfg with draws := s.draws, pending := s.pending }

/-- R76, R294: byte `k` of the program goes to 0x200 + k, before the first cycle and below MEM_SIZE; any other load is
outside the spec and is refused (D28, U11; log 8). -/
def loadByte (k : Nat) (b : Byte) (s : State) : Result :=
  if s.started then .refused (.loadOutsideWindow (0x200 + k))
  else
    match s.memWrite (0x200 + k) b with
    | none => .refused (.loadOutsideWindow (0x200 + k))
    | some t => .next t

/-- R262: `key[k] <- down`. -/
def State.setKey (s : State) (k : Nibble) (down : Bool) : State := { s with keys := s.keys.set k.toNat down k.isLt }

/-- R263: `requires_repaint <- false`. -/
def State.clearRepaint (s : State) : State := { s with requiresRepaint := false }

/-- R265: `running <- false`. -/
def State.quit (s : State) : State := { s with running := false }

/-- One event, from beginning to end (R264). -/
def deliver (e : Event) (s : State) : Result :=
  match e with
  | .reset => .next s.resetEvent
  | .load k b => loadByte k b s
  | .cycle rand => cycle rand s
  | .tick => .next s.tick
  | .setKey k down => .next (s.setKey k down)
  | .clearRepaint => .next s.clearRepaint
  | .quit => .next s.quit

/-- What happens next (R9, R264; log 5): the first event of the host's script, or, when the script is empty, a cycle
whose random byte is a free value (R173; log 6). -/
def nextEvent (s : State) : Result :=
  match s.pending with
  | [] => cycle (Config.freeRand s.draws) s
  | e :: rest => deliver e { s with pending := rest }

/-! ## Outputs (R266) -/

/-- The pixel at column x, row y (R31). -/
def State.pixel (s : State) (x y : Nat) : Bool := s.fb.get x y

/-- The colour of a pixel: all-one or all-zero 24 bits (R32). -/
def State.color (s : State) (x y : Nat) : BitVec 24 := if s.pixel x y then 0xFFFFFF else 0x000000

/-- `sound_on = (ST > 0)` (R27, R266). -/
def State.soundOn (s : State) : Bool := decide (0 < s.st.toNat)

/-- The number of the latched cause (R251). -/
def State.faultCode (s : State) : Nat := s.faultCause.code

end Sys2Proof.Machine
end

