-- ==== Sys2Proof/Machine/Step.lean ====
section
/-! DEFINITION. One step of the machine: one event (spec/00_scope.md R9, spec/60_exceptions.md R264). -/

namespace Sys2Proof.Machine

/-- One step: the next event of the host's script, or a cycle when the script is empty. -/
def step (s : State) : Host.Outcome State Fault Refusal := nextEvent s

/-- `s` with the instruction whose `nbits` bits are `w` placed where the very next step fetches it (log 9). -/
def State.withFetchWord (s : State) (nbits w : Nat) : State := s.placeWord nbits w

end Sys2Proof.Machine
end

