-- ==== Sys2Proof/Safety.lean ====
section
/-! DEFINITION. The terms in which claims about the CHIP-8 CORE are stated: the invariant of the machine, safe runs,
what a step leaves unchanged, which parts an instruction may write, and when an instruction is fatal. None of this is
used by the machine. -/

namespace Sys2Proof.Machine

/-! ## Safe states and runs -/

/-- R257: "A model should treat a halted state as a fault: it is never a final state of a successful run". A safe state
is one that is not halted (log 3). -/
def State.safe (s : State) : Prop := s.halted = false

/-- From `s`, `k` steps all answer, and end in a safe state. Since only the host's reset leaves the halted state, a safe
end without a reset in the host's script means that no state on the way was halted. -/
def SafeRun (k : Nat) (s : State) : Prop := ∃ t, Host.Core.run Sys2Proof.core k s = .next t ∧ t.safe

/-- From `s`, no number of steps ends in a halted state: "never halts" (R257). -/
def NeverHalts (s : State) : Prop := ∀ k t, Host.Core.run Sys2Proof.core k s = .next t → t.safe

/-! ## The invariant -/

/-- What holds of the machine at every instruction boundary. -/
structure State.Inv (s : State) : Prop where
  /-- The parameters are legal (R3, R4, R6). -/
  cfg : s.cfg.wellFormed = true
  /-- R23: 0 ≤ PC ≤ 0xFFF. -/
  pc : s.pc.toNat ≤ 0xFFF
  /-- R22: 0 ≤ I ≤ 0xFFF. -/
  index : s.i.toNat ≤ 0xFFF
  /-- R25: SP ≤ STACK_DEPTH. -/
  depth : s.sp ≤ s.cfg.stackDepth
  /-- R25: every live entry is at most 0xFFF. -/
  entries : ∀ w ∈ s.stack, w.toNat ≤ 0xFFF
  /-- R28: memory holds only addresses below MEM_SIZE, in its canonical form. -/
  mem : Memory.wf s.cfg s.mem = true
  /-- R37: the latch is clear while the machine is not halted. -/
  latchClear : s.halted = false → s.faultCause = .none ∧ s.faultInfo = 0
  /-- R37, R256: a halted machine says why. -/
  latchSet : s.halted = true → s.faultCause ≠ .none
  /-- R250, log 8: only a cycle halts the machine, so a halted machine has begun one. -/
  latchStarted : s.halted = true → s.started = true
  /-- R100, R251: NoHandler is raised by nothing. -/
  noHandler : s.faultCause ≠ .noHandler

/-! ## Frames -/

/-- The parts of the state a frame can name. The parameters are no part: nothing changes them (R39). -/
inductive Part where
  | reg (r : Nibble)
  | index
  | pc
  | stack
  | dt
  | st
  | mem
  | keys
  | fb
  | repaint
  | running
  | latch        -- halted, fault_cause, fault_info
  | bookkeeping  -- the model's own: started, rand, draws, pending
  deriving DecidableEq, Repr

/-- From `s` to `t`, nothing has changed but the parts in `ps`. -/
structure UnchangedBut (ps : List Part) (s t : State) : Prop where
  cfg : t.cfg = s.cfg
  reg : ∀ r, Part.reg r ∉ ps → t.reg r = s.reg r
  index : Part.index ∉ ps → t.i = s.i
  pc : Part.pc ∉ ps → t.pc = s.pc
  stack : Part.stack ∉ ps → t.stack = s.stack
  dt : Part.dt ∉ ps → t.dt = s.dt
  st : Part.st ∉ ps → t.st = s.st
  mem : Part.mem ∉ ps → ∀ a, t.memRead a = s.memRead a
  keys : Part.keys ∉ ps → ∀ k, t.key k = s.key k
  fb : Part.fb ∉ ps → ∀ x y, t.pixel x y = s.pixel x y
  repaint : Part.repaint ∉ ps → t.requiresRepaint = s.requiresRepaint
  running : Part.running ∉ ps → t.running = s.running
  latch : Part.latch ∉ ps → t.halted = s.halted ∧ t.faultCause = s.faultCause ∧ t.faultInfo = s.faultInfo
  bookkeeping : Part.bookkeeping ∉ ps →
    t.started = s.started ∧ t.rand = s.rand ∧ t.draws = s.draws ∧ t.pending = s.pending

/-- V[0] to V[X], the registers that `FX65` writes. -/
def regsUpTo (x : Nibble) : List Part := (List.range (x.toNat + 1)).map fun k => Part.reg (BitVec.ofNat 4 k)

/-- The parts an instruction may write when it is not fatal (spec/10_state.md, the column "Written by" of the summary
and R20, R21). The repaint flag is the cycle's (R124). -/
def mayWrite : Instr → List Part
  | .cls => [.fb]
  | .ret => [.pc, .stack]
  | .jp _ => [.pc]
  | .call _ => [.pc, .stack]
  | .seImm _ _ => [.pc]
  | .sneImm _ _ => [.pc]
  | .seReg _ _ => [.pc]
  | .ldImm x _ => [.reg x]
  | .addImm x _ => [.reg x]
  | .ldReg x _ => [.reg x]
  | .orReg x _ => [.reg x]
  | .andReg x _ => [.reg x]
  | .xorReg x _ => [.reg x]
  | .addReg x _ => [.reg x, .reg 0xF]
  | .subReg x _ => [.reg x, .reg 0xF]
  | .shr x _ => [.reg x, .reg 0xF]
  | .subnReg x _ => [.reg x, .reg 0xF]
  | .shl x _ => [.reg x, .reg 0xF]
  | .sneReg _ _ => [.pc]
  | .ldI _ => [.index]
  | .jpV0 _ => [.pc]
  | .rnd x _ => [.reg x]
  | .drw _ _ _ => [.fb, .reg 0xF]
  | .skp _ => [.pc]
  | .sknp _ => [.pc]
  | .ldVxDt x => [.reg x]
  | .ldVxK x => [.reg x, .pc]
  | .ldDtVx _ => [.dt]
  | .ldStVx _ => [.st]
  | .addI _ => [.index]
  | .ldF _ => [.index]
  | .ldB _ => [.mem]
  | .stRegs _ => [.mem, .index]
  | .ldRegs x => .index :: regsUpTo x

/-- How many bytes an instruction stores, from `blockBase s` on (R194, R195); 0 for one that stores nothing. The frame's
part `mem` says only that an instruction stores; this says where. -/
def storedBytes : Instr → Nat
  | .ldB _ => 3
  | .stRegs x => regCount x
  | .cls | .ret | .jp _ | .call _ | .jpV0 _ | .seImm _ _ | .sneImm _ _ | .seReg _ _ | .sneReg _ _ => 0
  | .ldImm _ _ | .addImm _ _ | .ldReg _ _ | .orReg _ _ | .andReg _ _ | .xorReg _ _ | .addReg _ _ => 0
  | .subReg _ _ | .shr _ _ | .subnReg _ _ | .shl _ _ | .rnd _ _ => 0
  | .ldI _ | .addI _ | .ldF _ | .ldRegs _ | .drw _ _ _ => 0
  | .skp _ | .sknp _ | .ldVxDt _ | .ldVxK _ | .ldDtVx _ | .ldStVx _ => 0

/-! ## Fatal conditions -/

/-- R190: of a block of `n` bytes at `base` that does not fit below `size`, the lowest address not below `size`. -/
def blockFault (size base n : Nat) : Option (FaultCause × Nat) :=
  if n = 0 ∨ base + n ≤ size then none
  else some (.addressOutOfRange, if size ≤ base then base else size)

/-- The one condition on which an instruction is fatal, with its cause and info (spec/60_exceptions.md R251 to R255,
R258), in the state in which it begins (PC post-advance). -/
def fatalCondition (s : State) : Instr → Option (FaultCause × Nat)
  | .ret => if s.sp = 0 then some (.stackUnderflow, 0) else none
  | .call _ => if s.sp < s.cfg.stackDepth then none else some (.stackOverflow, s.pc.toNat)
  | .jpV0 nnn =>
    if nnn.toNat + (s.reg 0).toNat ≤ 0xFFF then none
    else some (.addressOutOfRange, nnn.toNat + (s.reg 0).toNat)
  | .drw _ _ n => blockFault s.cfg.memSize s.i.toNat n.toNat
  | .ldB _ => blockFault s.cfg.memSize s.i.toNat 3
  | .stRegs x => blockFault s.cfg.memSize s.i.toNat (x.toNat + 1)
  | .ldRegs x => blockFault s.cfg.memSize s.i.toNat (x.toNat + 1)
  | .skp x => if (s.reg x).toNat ≤ 0xF then none else some (.keyIndexOutOfRange, (s.reg x).toNat)
  | .sknp x => if (s.reg x).toNat ≤ 0xF then none else some (.keyIndexOutOfRange, (s.reg x).toNat)
  | .cls | .jp _ | .seImm _ _ | .sneImm _ _ | .seReg _ _ | .sneReg _ _ => none
  | .ldImm _ _ | .addImm _ _ | .ldReg _ _ | .orReg _ _ | .andReg _ _ | .xorReg _ _ | .addReg _ _ => none
  | .subReg _ _ | .shr _ _ | .subnReg _ _ | .shl _ _ | .rnd _ _ => none
  | .ldI _ | .addI _ | .ldF _ | .ldVxDt _ | .ldVxK _ | .ldDtVx _ | .ldStVx _ => none

/-! ## Sprites -/

/-- R211, R212: whether the N-row sprite that `DXYN` reads in `s` has a set bit on the pixel at column `px`, row `py`:
the origin is (Vx mod 64, Vy mod 32), row r is the byte at I + r, column c is its bit 7 - c. -/
def spriteCovers (s : State) (x y n : Nibble) (px py : Nat) : Bool :=
  let ox := (s.reg x).toNat % 64
  let oy := (s.reg y).toNat % 32
  decide (ox ≤ px) && decide (px < ox + 8) && decide (oy ≤ py) && decide (py < oy + n.toNat) &&
    ((s.memRead (s.i.toNat + (py - oy))).getD 0).getLsbD (7 - (px - ox))

/-! ## Illegal words -/

/-- The table of illegal words of spec/30_encoding.md R99, family by family. -/
def illegalWord (op : Word) : Bool :=
  let family := op.toNat / 0x1000
  let n := op.toNat % 0x10
  let nn := op.toNat % 0x100
  let nnn := op.toNat % 0x1000
  (family == 0x0 && nnn != 0x0E0 && nnn != 0x0EE) ||
  ((family == 0x5 || family == 0x9) && n != 0) ||
  (family == 0x8 && (n == 8 || n == 9 || n == 0xA || n == 0xB || n == 0xC || n == 0xD || n == 0xF)) ||
  (family == 0xE && nn != 0x9E && nn != 0xA1) ||
  (family == 0xF && nn != 0x07 && nn != 0x0A && nn != 0x15 && nn != 0x18 && nn != 0x1E && nn != 0x29 && nn != 0x33 &&
    nn != 0x55 && nn != 0x65)

end Sys2Proof.Machine
end

