-- ==== Sys2Proof/Certificates/Slice0/Obligations.lean ====
section
/-! DEFINITION. The statements about the CHIP-8 CORE, one definition each; OBLIGATIONS.json lists them. In a statement
about `exec i s` the state `s` is the one in which the instruction begins: PC is the post-advance value (R121). A
statement holds for every set of parameters in `s.cfg` unless it names a bound. -/

open Sys2Proof
open Sys2Proof.Machine

/-! ## Encoding -/

/-- spec/30_encoding.md section 6, the worked decodings: five words and the instructions they stand for, three words
that are none; and a word, written out from the rows of section 3, for every family the five are not of (0, 2 to 7,
9, B, C, E). That 0x5121 is no instruction is the spec's decision D10 (log 10). -/
def Obligations.WordsOfTheSpecDecode : Prop :=
  (decodeWord 0xA22A = .ok (.ldI 0x22A) ∧ decodeWord 0xD00F = .ok (.drw 0 0 15) ∧
    decodeWord 0x1200 = .ok (.jp 0x200) ∧ decodeWord 0x8AB7 = .ok (.subnReg 0xA 0xB) ∧
    decodeWord 0xF365 = .ok (.ldRegs 3)) ∧
  (decodeWord 0x0000 = .error (.unrecognizedSuffix 0x0000) ∧ decodeWord 0x5121 = .error (.unrecognizedSuffix 0x5121) ∧
    decodeWord 0x8ABF = .error (.unrecognizedSuffix 0x8ABF)) ∧
  (decodeWord 0x00EE = .ok .ret ∧ decodeWord 0x2208 = .ok (.call 0x208) ∧ decodeWord 0x332A = .ok (.seImm 3 0x2A) ∧
    decodeWord 0x432B = .ok (.sneImm 3 0x2B) ∧ decodeWord 0x5120 = .ok (.seReg 1 2) ∧
    decodeWord 0x6A2B = .ok (.ldImm 0xA 0x2B) ∧ decodeWord 0x7005 = .ok (.addImm 0 0x05) ∧
    decodeWord 0x9120 = .ok (.sneReg 1 2) ∧ decodeWord 0xBF01 = .ok (.jpV0 0xF01) ∧
    decodeWord 0xC30F = .ok (.rnd 3 0x0F) ∧ decodeWord 0xE49E = .ok (.skp 4))

/-- Decode and encode agree on every instruction with every operand, as words and as bytes in memory order. -/
def Obligations.DecodeOfEncodeIsTheInstruction : Prop :=
  ∀ (i : Instr) (rest : List Byte),
    decodeWord (encode i) = .ok i ∧ decode (encodeBytes i ++ rest) = .ok (i, rest)

/-- Each legal word has one meaning: the word an instruction is decoded from is the word it is encoded to. That families
0, 5 and 9 match exactly is the spec's decision D10 (log 10). -/
def Obligations.DecodedWordIsItsInstructionsEncoding : Prop :=
  ∀ (w : Word) (i : Instr), decodeWord w = .ok i → encode i = w

/-- 30_encoding.md section 3 (R94; that rows 1 and 2 match all sixteen bits, and that the families 5 and 9 have a
suffix, is the spec's decision D10, log 10): the map has 34 rows; an opcode decodes to the instruction of the row with
`(op & mask) = match`, and the rows are disjoint. -/
def Obligations.OpcodeSelectsItsOneRow : Prop :=
  opcodeMap.length = 34 ∧
  (∀ op r, r ∈ opcodeMap → op &&& r.mask = r.pattern → ∃ i, decodeWord op = .ok i ∧ i.row = r) ∧
  (∀ op i, decodeWord op = .ok i → i.row ∈ opcodeMap ∧ op &&& i.row.mask = i.row.pattern) ∧
  (∀ op r r', r ∈ opcodeMap → r' ∈ opcodeMap → op &&& r.mask = r.pattern → op &&& r'.mask = r'.pattern → r = r')

/-- The table of illegal words (30_encoding.md section 4), which rests on the spec's decision D10 for families 0, 5 and
9 (log 10): exactly those words are rejected, each as an unrecognised suffix, and every other word is an instruction. -/
def Obligations.IllegalWordsAreThoseOfTheTable : Prop :=
  ∀ op : Word,
    (illegalWord op = true → decodeWord op = .error (.unrecognizedSuffix op)) ∧
    (illegalWord op = false → ∃ i, decodeWord op = .ok i)

/-! ## The cycle -/

/-- 40_cycle.md section 5 (R126; that events come from a script is log 5): when the two bytes at PC decode to an
instruction, a step that is a cycle runs it: from the state with PC advanced by 2 modulo 0x1000 (and the model's
bookkeeping of the draw), `exec`, then the repaint flag's rule. The step is a cycle when the host's script is empty
(its draw is then a free value, log 6) or begins with a cycle event, whose draw is the event's. -/
def Obligations.StepRunsTheDecodedInstruction : Prop :=
  ∀ (s : State) (i : Instr) (hi lo : Byte),
    s.halted = false → s.memRead s.pc.toNat = some hi → s.memRead (s.pc.toNat + 1) = some lo →
    decode [hi, lo] = .ok (i, []) →
    ∀ (rand : Byte) (rest : List Event),
      (s.pending = [] ∧ rand = Config.freeRand s.draws ∧ rest = []) ∨ s.pending = .cycle rand :: rest →
      ∃ s1 : State, s1.pc.toNat = (s.pc.toNat + 2) % 0x1000 ∧ s1.rand = rand ∧ s1.pending = rest ∧
        UnchangedBut [.pc, .bookkeeping] s s1 ∧
        ∃ t, exec i s1 = .next t ∧ step s = .next (afterExecute i t)

/-- 40_cycle.md section 2 (R120; the clean halted state is the spec's decision D5, log 10): the fetch reads the byte
at PC and the byte at PC + 1, the first the high byte of the opcode, PC + 1 not wrapped; a read that is out of range
raises AddressOutOfRange with the first offending address, PC keeps its value and nothing else happens. From 0xFFF no
instruction can ever be fetched. For every legal set of parameters. -/
def Obligations.FetchReadsTwoBytesOrHalts : Prop :=
  ∀ (s : State) (rand : Byte), s.halted = false → s.cfg.wellFormed = true →
    (s.cfg.memSize ≤ s.pc.toNat →
      ∃ t, cycle rand s = .next t ∧ t.halted = true ∧ t.faultCause = .addressOutOfRange ∧
        t.faultInfo.toNat = s.pc.toNat ∧ UnchangedBut [.latch, .bookkeeping] s t) ∧
    (s.pc.toNat + 1 = s.cfg.memSize →
      ∃ t, cycle rand s = .next t ∧ t.halted = true ∧ t.faultCause = .addressOutOfRange ∧
        t.faultInfo.toNat = s.pc.toNat + 1 ∧ UnchangedBut [.latch, .bookkeeping] s t) ∧
    (s.pc.toNat + 1 < s.cfg.memSize →
      ∃ hi lo : Byte, s.memRead s.pc.toNat = some hi ∧ s.memRead (s.pc.toNat + 1) = some lo ∧
        s.fetch = .bytes hi lo ∧ (Opcode.ofBytes hi lo).toNat = hi.toNat * 256 + lo.toNat) ∧
    (s.pc = 0xFFF →
      ∃ t, cycle rand s = .next t ∧ t.halted = true ∧ t.faultCause = .addressOutOfRange ∧ t.pc = 0xFFF)

/-- 60_exceptions.md section 1 (R252; which words are illegal rests in part on the spec's decision D10, the clean
halted state on D5; log 10): a fetched word that matches no row of R94 raises UnrecognizedSuffix with the word, PC
already advanced, and nothing else; and a word is judged only when it is fetched for execution: a cycle that raises
UnrecognizedSuffix has fetched such a word. -/
def Obligations.IllegalWordHaltsWithPcAdvanced : Prop :=
  (∀ (s : State) (rand hi lo : Byte),
    s.halted = false → s.memRead s.pc.toNat = some hi → s.memRead (s.pc.toNat + 1) = some lo →
    (∀ r ∈ opcodeMap, Opcode.ofBytes hi lo &&& r.mask ≠ r.pattern) →
    ∃ t, cycle rand s = .next t ∧ t.halted = true ∧ t.faultCause = .unrecognizedSuffix ∧
      t.faultInfo = Opcode.ofBytes hi lo ∧ t.pc.toNat = (s.pc.toNat + 2) % 0x1000 ∧
      UnchangedBut [.pc, .latch, .bookkeeping] s t) ∧
  (∀ (s t : State) (rand : Byte),
    s.halted = false → cycle rand s = .next t → t.halted = true → t.faultCause = .unrecognizedSuffix →
    ∃ hi lo : Byte, s.memRead s.pc.toNat = some hi ∧ s.memRead (s.pc.toNat + 1) = some lo ∧
      t.faultInfo = Opcode.ofBytes hi lo ∧ ∀ r ∈ opcodeMap, Opcode.ofBytes hi lo &&& r.mask ≠ r.pattern)

/-- 40_cycle.md section 4, with the spec's decision D11 that the flag is sticky (log 10): a cycle that runs `00E0` or
`DXYN` without a fatal condition sets the flag, whatever was drawn; every other cycle leaves it as it was. -/
def Obligations.RepaintFlagIsSetByIdentity : Prop :=
  ∀ (i : Instr) (s t : State), s.halted = false → runInstr i s = .next t →
    (t.requiresRepaint = true ↔
      s.requiresRepaint = true ∨ (t.halted = false ∧ (i = .cls ∨ ∃ x y n, i = .drw x y n)))

/-- 60_exceptions.md section 2 (R257; the halted state as a state is the spec's decision D5, that it freezes the
timers D29; log 3, 10): while halted, a cycle and a tick change nothing; `set_key`, `clear_repaint` and `quit` act as
usual and leave the latch; only reset clears it. -/
def Obligations.HaltedStateAbsorbsCyclesAndTicks : Prop :=
  ∀ (s : State) (rest : List Event), s.halted = true →
    (s.pending = [] → step s = .next s) ∧
    (∀ r, s.pending = .cycle r :: rest → step s = .next { s with pending := rest }) ∧
    (s.pending = .tick :: rest → step s = .next { s with pending := rest }) ∧
    (∀ k b, s.pending = .setKey k b :: rest →
      ∃ t, step s = .next t ∧ t.key k = b ∧ (∀ j, j ≠ k → t.key j = s.key j) ∧
        UnchangedBut [.keys, .bookkeeping] s t) ∧
    (s.pending = .clearRepaint :: rest →
      ∃ t, step s = .next t ∧ t.requiresRepaint = false ∧ UnchangedBut [.repaint, .bookkeeping] s t) ∧
    (s.pending = .quit :: rest →
      ∃ t, step s = .next t ∧ t.running = false ∧ UnchangedBut [.running, .bookkeeping] s t) ∧
    (s.pending = .reset :: rest →
      ∃ t, step s = .next t ∧ t.halted = false ∧ t.faultCause = .none ∧ t.faultInfo = 0) ∧
    (∀ t, step s = .next t → t.halted = false → s.pending.head? = some .reset)

/-- 60_exceptions.md section 2 (the halted state as a state is the spec's decision D5, what it freezes D29; log 3,
10): only reset clears `halted`. Over any number of steps whose script holds no reset, a halted machine stays halted
with the same latch, and keeps PC, the registers, I, the stack, the timers and the pixels; and, once a cycle has begun
since reset, which closes the host's load window (log 8) and holds of every halted machine that meets the invariant,
memory too. -/
def Obligations.HaltedMachineStaysHaltedWithoutReset : Prop :=
  ∀ (k : Nat) (s t : State), s.halted = true → Event.reset ∉ s.pending →
    Host.Core.run Sys2Proof.core k s = .next t →
    t.halted = true ∧ UnchangedBut [.keys, .repaint, .running, .mem, .bookkeeping] s t ∧
      (s.started = true → ∀ a, t.memRead a = s.memRead a)

/-! ## Invariants and whole-machine rules -/

/-- Every step keeps the invariant: legal parameters, PC and I within 12 bits, the stack within its depth and its
entries within 12 bits, memory canonical and below MEM_SIZE, the fault latch consistent, never NoHandler, and set only
after a cycle has begun (the bounds of the parameters and of BNNN are the spec's decisions D1, D3, D13, the latch D5;
log 8, 10). -/
def Obligations.EveryStepKeepsTheInvariant : Prop :=
  ∀ s t : State, s.Inv → step s = .next t → t.Inv

/-- The invariant holds after reset, for every legal set of parameters and for the default one. -/
def Obligations.ResetStateMeetsTheInvariant : Prop :=
  (∀ c : Config, c.wellFormed = true → (State.resetWith c).Inv) ∧ State.reset.Inv

/-- 10_state.md section 12 (reset values; all but PC and the font are the spec's decision D12, log 10): what the reset
event leaves, from any state. -/
def Obligations.ResetEventGivesTheResetValues : Prop :=
  ∀ (s : State) (rest : List Event), s.pending = .reset :: rest →
    ∃ t, step s = .next t ∧ t.cfg = s.cfg ∧ t.pc = 0x200 ∧
      (∀ a, t.memRead a =
        if s.cfg.memSize ≤ a then none
        else if 0x50 ≤ a ∧ a < 0xA0 then some (s.cfg.font.getD (a - 0x50) 0) else some 0) ∧
      (∀ r, t.reg r = 0) ∧ t.i = 0 ∧ t.sp = 0 ∧ t.dt = 0 ∧ t.st = 0 ∧ (∀ k, t.key k = false) ∧
      (∀ x y, t.pixel x y = false) ∧ t.requiresRepaint = false ∧ t.running = true ∧ t.halted = false ∧
      t.faultCause = .none ∧ t.faultInfo = 0 ∧ t.pending = rest

/-- 10_state.md, the column "Written by" of the summary: an instruction that is not fatal changes only its own parts of
the state, for every instruction at once. Memory byte by byte: every byte outside the stored ones, the three at
`blockBase s` for `FX33`, the X + 1 for `FX55`, none for every other instruction, reads as before. Pixels pixel by
pixel. -/
def Obligations.InstructionsWriteOnlyTheirParts : Prop :=
  ∀ (i : Instr) (s t : State), exec i s = .next t → t.halted = false →
    UnchangedBut (mayWrite i) s t ∧
    ∀ a, a < blockBase s ∨ blockBase s + storedBytes i ≤ a → t.memRead a = s.memRead a

/-- 10_state.md section 2 and 42_arithmetic.md section 1: after `8XY4` and `DXYN` VF is 0 or 1 whatever X is, after
`8XY5`, `8XY6`, `8XY7`, `8XYE` with X ≠ 0xF too (with X = 0xF these four leave their result in VF, R169); an instruction
that is none of the six and has no X = 0xF destination leaves VF unchanged. That `8FY4` and `DFYN` leave the flag in VF
rests on the spec's decisions D4 and D21 (U6; log 10). -/
def Obligations.FlagRegisterHoldsZeroOrOne : Prop :=
  ∀ (s t : State) (x y n : Nibble),
    (exec (.addReg x y) s = .next t → t.reg 0xF = 0 ∨ t.reg 0xF = 1) ∧
    (exec (.drw x y n) s = .next t → t.halted = false → t.reg 0xF = 0 ∨ t.reg 0xF = 1) ∧
    (x ≠ 0xF → ∀ i ∈ [Instr.subReg x y, .shr x y, .subnReg x y, .shl x y],
      exec i s = .next t → t.reg 0xF = 0 ∨ t.reg 0xF = 1) ∧
    (∀ i : Instr, Part.reg 0xF ∉ mayWrite i → exec i s = .next t → t.reg 0xF = s.reg 0xF)

/-- 10_state.md section 4, how PC changes, exhaustively (the skip's and the rewind's arithmetic is the spec's decision
D27, log 10); PC here is the post-advance value, and a fatal instruction leaves it. -/
def Obligations.PcChangesOnlyInTheListedWays : Prop :=
  ∀ (i : Instr) (s t : State), exec i s = .next t →
    t.pc = s.pc ∨
    (t.pc.toNat = (s.pc.toNat + 2) % 0x1000 ∧
      ∃ x y nn, i = .seImm x nn ∨ i = .sneImm x nn ∨ i = .seReg x y ∨ i = .sneReg x y ∨ i = .skp x ∨ i = .sknp x) ∨
    (∃ nnn : Addr, t.pc.toNat = nnn.toNat ∧ (i = .jp nnn ∨ i = .call nnn)) ∨
    (∃ nnn : Addr, t.pc.toNat = nnn.toNat + (s.reg 0).toNat ∧ t.pc.toNat ≤ 0xFFF ∧ i = .jpV0 nnn) ∨
    (∃ w rest, s.stack = w :: rest ∧ t.pc = w ∧ i = .ret) ∨
    (t.pc.toNat = (0xFFE + s.pc.toNat) % 0x1000 ∧ ∃ x, i = .ldVxK x ∧ ∀ k, s.key k = false)

/-- 60_exceptions.md sections 1 and 2 (the clean state of a fatal condition is the spec's decision D5; the bounds of
`BNNN` and of the key index are D3 and D7; log 10): an instruction is fatal exactly on its one condition, and then it
does nothing but set the fault latch to that condition's cause and info. -/
def Obligations.FatalConditionsAreTheListedOnesAndCommitNothing : Prop :=
  ∀ (i : Instr) (s : State), s.halted = false →
    ∃ t, exec i s = .next t ∧
      (fatalCondition s i = none → t.halted = false) ∧
      (∀ c a, fatalCondition s i = some (c, a) →
        t.halted = true ∧ t.faultCause = c ∧ t.faultInfo.toNat = a % 0x10000 ∧ UnchangedBut [.latch] s t)

/-- 10_state.md section 5 and the property of 41_control_flow.md: a call followed by a return gives back the call site's
post-advance PC and the stack. -/
def Obligations.CallThenReturnRestoresPcAndStack : Prop :=
  ∀ (s t u : State) (nnn : Addr), s.halted = false → s.sp < s.cfg.stackDepth → exec (.call nnn) s = .next t →
    u.stack = t.stack → ∃ w, exec .ret u = .next w ∧ w.pc = s.pc ∧ w.stack = s.stack

/-- 20_memory.md section 3: in a canonical memory a byte stored is the byte every later read of that address gives,
every other address keeps its byte, the canonical form is kept; at and beyond MEM_SIZE neither access exists. -/
def Obligations.StoredByteReadsBack : Prop :=
  ∀ (s : State) (a : Nat) (b : Byte), Memory.wf s.cfg s.mem = true →
    (a < s.cfg.memSize →
      ∃ t, s.memWrite a b = some t ∧ t.memRead a = some b ∧ (∀ a', a' ≠ a → t.memRead a' = s.memRead a') ∧
        Memory.wf t.cfg t.mem = true ∧ UnchangedBut [.mem] s t) ∧
    (s.cfg.memSize ≤ a → s.memWrite a b = none ∧ s.memRead a = none)

/-- 20_memory.md section 4 (a derived rule of the spec; that nothing is protected is its decision D30, log 10): the
two bytes that `FX55` stores at the address PC points to are the two bytes the very next fetch gives, V[0] the high
byte. -/
def Obligations.StoreIsSeenByTheNextFetch : Prop :=
  ∀ (s : State) (x : Nibble), Memory.wf s.cfg s.mem = true → s.halted = false → 1 ≤ x.toNat → s.i = s.pc →
    s.i.toNat + x.toNat < s.cfg.memSize →
    ∃ t, exec (.stRegs x) s = .next t ∧ t.halted = false ∧ t.fetch = .bytes (s.reg 0) (s.reg 1)

/-- 10_state.md sections 6 and 10 (of `running`, the spec's decision D25, log 10): no instruction reads ST,
`requires_repaint` or `running`. From two states that differ
only in these, an instruction gives two states that differ only in these. -/
def Obligations.OutputsAreNeverReadByInstructions : Prop :=
  ∀ (i : Instr) (s t : State) (st : Byte) (rep run : Bool), exec i s = .next t →
    ∃ u, exec i { s with st := st, requiresRepaint := rep, running := run } = .next u ∧
      UnchangedBut [.st, .repaint, .running] t u ∧ u.requiresRepaint = rep ∧ u.running = run

/-- 40_cycle.md section 1: only `CXNN` reads the draw. From two states that differ only in it, any other instruction
gives two states that differ only in it. -/
def Obligations.OnlyRandomReadsTheDraw : Prop :=
  ∀ (i : Instr) (s t : State) (rand : Byte), (∀ x nn, i ≠ .rnd x nn) → exec i s = .next t →
    ∃ u, exec i { s with rand := rand } = .next u ∧ u.rand = rand ∧ u.draws = t.draws ∧ u.pending = t.pending ∧
      u.started = t.started ∧ UnchangedBut [.bookkeeping] t u

/-- 93_implementation_defined.md U18 and U11: every step answers a next state, except that a host load after the first
cycle or outside 0x200 to MEM_SIZE - 1 is refused (the refusal is the spec's decision D28, log 8). -/
def Obligations.OnlyALoadOutsideItsWindowIsRefused : Prop :=
  ∀ s : State,
    ((∃ k b rest, s.pending = .load k b :: rest ∧ (s.started = true ∨ s.cfg.memSize ≤ 0x200 + k)) →
      ∃ a, step s = .refused (.loadOutsideWindow a)) ∧
    ((¬ ∃ k b rest, s.pending = .load k b :: rest ∧ (s.started = true ∨ s.cfg.memSize ≤ 0x200 + k)) →
      ∃ t, step s = .next t)

/-- 70_reset_and_hazards.md section 2 (the load window is the spec's decision D28, log 8; the script log 5): before
the first cycle `load(k, byte)` puts byte k of the program at 0x200 + k and does nothing else. -/
def Obligations.LoadPlacesAProgramByte : Prop :=
  ∀ (s : State) (k : Nat) (b : Byte) (rest : List Event), s.pending = .load k b :: rest → s.started = false →
    0x200 + k < s.cfg.memSize → Memory.wf s.cfg s.mem = true →
    ∃ t, step s = .next t ∧ t.memRead (0x200 + k) = some b ∧ (∀ a, a ≠ 0x200 + k → t.memRead a = s.memRead a) ∧
      t.started = false ∧ t.pending = rest ∧ UnchangedBut [.mem, .bookkeeping] s t

/-- 45_keypad_timers.md section 3 (R237; the tick as an event of the host's script is log 5; that a halted machine's
tick does nothing rests on the spec's decisions D5 and D29, log 3, 10): a tick counts each timer down by 1 if it is
above 0 and leaves it at 0, and touches nothing else; a halted machine's tick does nothing; n ticks take a timer at d
to d - n, so one set to n is 0 after exactly n. -/
def Obligations.TickCountsBothTimersDown : Prop :=
  (∀ (s : State) (rest : List Event), s.pending = .tick :: rest →
    ∃ t, step s = .next t ∧ UnchangedBut [.dt, .st, .bookkeeping] s t ∧ t.pending = rest ∧ t.rand = s.rand ∧
      t.started = s.started ∧ t.draws = s.draws ∧
      (s.halted = false →
        t.dt.toNat = (if 0 < s.dt.toNat then s.dt.toNat - 1 else 0) ∧
        t.st.toNat = (if 0 < s.st.toNat then s.st.toNat - 1 else 0)) ∧
      (s.halted = true → t.dt = s.dt ∧ t.st = s.st)) ∧
  (∀ (n : Nat) (s : State), s.halted = false → s.pending = List.replicate n .tick →
    ∃ t, Host.Core.run Sys2Proof.core n s = .next t ∧ t.dt.toNat = s.dt.toNat - n ∧ t.st.toNat = s.st.toNat - n)

/-- 60_exceptions.md section 4 (R262, R263, R265; the events are the spec's framing, decision D17, log 5; that a halted
machine takes them too D29, log 10): `set_key(k, b)` writes key[k], `clear_repaint` writes `requires_repaint`, `quit`
writes `running`, and each does nothing else, halted or not. -/
def Obligations.HostWritesOneLatchOrTheRepaintFlag : Prop :=
  ∀ (s : State) (rest : List Event),
    (∀ k b, s.pending = .setKey k b :: rest →
      ∃ t, step s = .next t ∧ t.key k = b ∧ (∀ j, j ≠ k → t.key j = s.key j) ∧ t.pending = rest ∧
        t.rand = s.rand ∧ t.started = s.started ∧ t.draws = s.draws ∧ UnchangedBut [.keys, .bookkeeping] s t) ∧
    (s.pending = .clearRepaint :: rest →
      ∃ t, step s = .next t ∧ t.requiresRepaint = false ∧ t.pending = rest ∧
        t.rand = s.rand ∧ t.started = s.started ∧ t.draws = s.draws ∧ UnchangedBut [.repaint, .bookkeeping] s t) ∧
    (s.pending = .quit :: rest →
      ∃ t, step s = .next t ∧ t.running = false ∧ t.pending = rest ∧
        t.rand = s.rand ∧ t.started = s.started ∧ t.draws = s.draws ∧ UnchangedBut [.running, .bookkeeping] s t)

/-- 10_state.md sections 8 and 10: in a step, a key latch changes only by `set_key` or reset, and `running` only by
`quit` or reset. -/
def Obligations.LatchesAndRunningAreTheHosts : Prop :=
  ∀ (s t : State), step s = .next t →
    ((∃ k, t.key k ≠ s.key k) → ∃ e rest, s.pending = e :: rest ∧ (e = .reset ∨ ∃ k b, e = .setKey k b)) ∧
    (t.running ≠ s.running → ∃ e rest, s.pending = e :: rest ∧ (e = .reset ∨ e = .quit))

/-! ## Control flow -/

/-- R142 `1NNN`: PC := NNN, nothing else. -/
def Obligations.JumpLoadsPc : Prop :=
  ∀ (nnn : Addr) (s : State), decodeWord (wordNNN 0x1 nnn) = .ok (.jp nnn) ∧
    ∃ t, exec (.jp nnn) s = .next t ∧ t.pc.toNat = nnn.toNat ∧ UnchangedBut [.pc] s t

/-- 41_control_flow.md section 2, `2NNN` (R143, R33; the clean halted state is the spec's decision D5, log 10; the
stack as a list of live entries log 4): the post-advance PC is pushed and PC := NNN; on a full stack StackOverflow
with PC as info, and nothing else. -/
def Obligations.CallPushesTheReturnAddress : Prop :=
  ∀ (nnn : Addr) (s : State), decodeWord (wordNNN 0x2 nnn) = .ok (.call nnn) ∧
    (s.sp < s.cfg.stackDepth →
      ∃ t, exec (.call nnn) s = .next t ∧ t.pc.toNat = nnn.toNat ∧ t.sp = s.sp + 1 ∧
        t.stackEntry s.sp = some s.pc ∧ (∀ k, k < s.sp → t.stackEntry k = s.stackEntry k) ∧
        UnchangedBut [.pc, .stack] s t) ∧
    (s.cfg.stackDepth ≤ s.sp →
      ∃ t, exec (.call nnn) s = .next t ∧ t.halted = true ∧ t.faultCause = .stackOverflow ∧ t.faultInfo = s.pc ∧
        UnchangedBut [.latch] s t)

/-- 41_control_flow.md section 2, `00EE` (R141, R34; decision D5, log 10; log 4): the newest entry is popped into PC;
on an empty stack StackUnderflow, and nothing else. -/
def Obligations.ReturnPopsIntoPc : Prop :=
  ∀ s : State, decodeWord 0x00EE = .ok .ret ∧
    (0 < s.sp →
      ∃ t, exec .ret s = .next t ∧ s.stackEntry (s.sp - 1) = some t.pc ∧ t.sp + 1 = s.sp ∧
        (∀ k, k < t.sp → t.stackEntry k = s.stackEntry k) ∧ UnchangedBut [.pc, .stack] s t) ∧
    (s.sp = 0 →
      ∃ t, exec .ret s = .next t ∧ t.halted = true ∧ t.faultCause = .stackUnderflow ∧ t.faultInfo = 0 ∧
        UnchangedBut [.latch] s t)

/-- 41_control_flow.md sections 1 and 2 (R144 to R147; that the second advance is masked like the first is the spec's
decision D27, log 10): each skip advances PC by 2 more, modulo 0x1000, exactly when its condition holds. -/
def Obligations.SkipsAdvanceOnceMoreWhenTheConditionHolds : Prop :=
  ∀ (x y : Nibble) (nn : Byte) (s : State),
    (decodeWord (wordXNN 0x3 x nn) = .ok (.seImm x nn) ∧ decodeWord (wordXNN 0x4 x nn) = .ok (.sneImm x nn) ∧
      decodeWord (wordXYN 0x5 x y 0) = .ok (.seReg x y) ∧ decodeWord (wordXYN 0x9 x y 0) = .ok (.sneReg x y)) ∧
    ∀ (i : Instr) (cond : Prop),
      (i = .seImm x nn ∧ cond = (s.reg x = nn)) ∨ (i = .sneImm x nn ∧ cond = (s.reg x ≠ nn)) ∨
        (i = .seReg x y ∧ cond = (s.reg x = s.reg y)) ∨ (i = .sneReg x y ∧ cond = (s.reg x ≠ s.reg y)) →
      ∃ t, exec i s = .next t ∧ (cond → t.pc.toNat = (s.pc.toNat + 2) % 0x1000) ∧ (¬ cond → t.pc = s.pc) ∧
        UnchangedBut [.pc] s t

/-- 41_control_flow.md section 2, `BNNN` (R148; that a sum above 0xFFF is fatal is the spec's decision D3, log 10):
PC := NNN + V[0], whatever the second nibble of the opcode. -/
def Obligations.JumpWithOffsetAddsV0 : Prop :=
  ∀ (nnn : Addr) (s : State), decodeWord (wordNNN 0xB nnn) = .ok (.jpV0 nnn) ∧
    (nnn.toNat + (s.reg 0).toNat ≤ 0xFFF →
      ∃ t, exec (.jpV0 nnn) s = .next t ∧ t.pc.toNat = nnn.toNat + (s.reg 0).toNat ∧ UnchangedBut [.pc] s t) ∧
    (0xFFF < nnn.toNat + (s.reg 0).toNat →
      ∃ t, exec (.jpV0 nnn) s = .next t ∧ t.halted = true ∧ t.faultCause = .addressOutOfRange ∧
        t.faultInfo.toNat = nnn.toNat + (s.reg 0).toNat ∧ UnchangedBut [.latch] s t)

/-! ## Load, arithmetic, logic, shift, random -/

/-- R161 `6XNN`: Vx := NN. -/
def Obligations.LoadImmediateWritesOneRegister : Prop :=
  ∀ (x : Nibble) (nn : Byte) (s : State), decodeWord (wordXNN 0x6 x nn) = .ok (.ldImm x nn) ∧
    ∃ t, exec (.ldImm x nn) s = .next t ∧ t.reg x = nn ∧ UnchangedBut [.reg x] s t

/-- R162 `7XNN`: Vx := (Vx + NN) mod 256, VF not written unless X = 0xF. Two of them after a load add up. -/
def Obligations.AddImmediateWrapsWithoutFlag : Prop :=
  ∀ (x : Nibble) (nn : Byte) (s : State), decodeWord (wordXNN 0x7 x nn) = .ok (.addImm x nn) ∧
    (∃ t, exec (.addImm x nn) s = .next t ∧ (t.reg x).toNat = ((s.reg x).toNat + nn.toNat) % 256 ∧
      UnchangedBut [.reg x] s t) ∧
    (∀ (a : Byte) (t : State), exec (.ldImm x a) s = .next t →
      ∃ u, exec (.addImm x nn) t = .next u ∧ (u.reg x).toNat = (a.toNat + nn.toNat) % 256)

/-- R163 to R166 `8XY0` to `8XY3`: move, or, and, xor, bit by bit; VF is not written unless X = 0xF. -/
def Obligations.MoveAndLogicActBitwiseWithoutFlag : Prop :=
  ∀ (x y : Nibble) (s : State),
    (decodeWord (wordXYN 0x8 x y 0) = .ok (.ldReg x y) ∧ decodeWord (wordXYN 0x8 x y 1) = .ok (.orReg x y) ∧
      decodeWord (wordXYN 0x8 x y 2) = .ok (.andReg x y) ∧ decodeWord (wordXYN 0x8 x y 3) = .ok (.xorReg x y)) ∧
    (∃ t, exec (.ldReg x y) s = .next t ∧ t.reg x = s.reg y ∧ UnchangedBut [.reg x] s t) ∧
    (∃ t, exec (.orReg x y) s = .next t ∧
      (∀ b, (t.reg x).getLsbD b = ((s.reg x).getLsbD b || (s.reg y).getLsbD b)) ∧ UnchangedBut [.reg x] s t) ∧
    (∃ t, exec (.andReg x y) s = .next t ∧
      (∀ b, (t.reg x).getLsbD b = ((s.reg x).getLsbD b && (s.reg y).getLsbD b)) ∧ UnchangedBut [.reg x] s t) ∧
    (∃ t, exec (.xorReg x y) s = .next t ∧
      (∀ b, (t.reg x).getLsbD b = ((s.reg x).getLsbD b ^^ (s.reg y).getLsbD b)) ∧ UnchangedBut [.reg x] s t)

/-- 42_arithmetic.md, `8XY4` (R167; that operands are read once, on which the forms with X = 0xF and Y = 0xF rest, is
the spec's decision D4, U6, log 10): Vx := (Vx + Vy) mod 256, then VF := 1 if the true sum exceeds 255, else 0; with X
= 0xF the flag is what VF holds. -/
def Obligations.AddWrapsAndSetsCarry : Prop :=
  ∀ (x y : Nibble) (s : State), decodeWord (wordXYN 0x8 x y 4) = .ok (.addReg x y) ∧
    ∃ t, exec (.addReg x y) s = .next t ∧
      (x ≠ 0xF → (t.reg x).toNat = ((s.reg x).toNat + (s.reg y).toNat) % 256) ∧
      (t.reg 0xF).toNat = (if 255 < (s.reg x).toNat + (s.reg y).toNat then 1 else 0) ∧
      UnchangedBut [.reg x, .reg 0xF] s t

/-- 42_arithmetic.md, `8XY5` and `8XY7` (R168, R171; that operands are read once is the spec's decision D4, log 10): the
difference modulo 256 goes to Vx, and VF is 1 exactly when there is no borrow, independent of the wrapped result; with
X = 0xF the difference is what VF holds. -/
def Obligations.SubtractsWrapAndSetNoBorrow : Prop :=
  ∀ (x y : Nibble) (s : State),
    (decodeWord (wordXYN 0x8 x y 5) = .ok (.subReg x y) ∧ decodeWord (wordXYN 0x8 x y 7) = .ok (.subnReg x y)) ∧
    (∃ t, exec (.subReg x y) s = .next t ∧
      ((t.reg x).toNat : Int) = ((s.reg x).toNat - (s.reg y).toNat : Int) % 256 ∧
      (x ≠ 0xF → t.reg 0xF = if s.reg x ≥ s.reg y then 1 else 0) ∧ UnchangedBut [.reg x, .reg 0xF] s t) ∧
    (∃ t, exec (.subnReg x y) s = .next t ∧
      ((t.reg x).toNat : Int) = ((s.reg y).toNat - (s.reg x).toNat : Int) % 256 ∧
      (x ≠ 0xF → t.reg 0xF = if s.reg y ≥ s.reg x then 1 else 0) ∧ UnchangedBut [.reg x, .reg 0xF] s t)

/-- 42_arithmetic.md, `8XY6` and `8XYE` (R170, R172; the destination under LEGACY_SHIFT is the spec's decision D14, the
single read of operands D4; log 10, 11): the source, Vy under LEGACY_SHIFT and else Vx, is shifted by one position into
Vx, and VF takes the bit shifted out; with X = 0xF the result is what VF holds. -/
def Obligations.ShiftsMoveOneBitAndKeepTheLostOne : Prop :=
  ∀ (x y : Nibble) (s : State) (src : Byte), src = (if s.cfg.legacyShift then s.reg y else s.reg x) →
    (decodeWord (wordXYN 0x8 x y 6) = .ok (.shr x y) ∧ decodeWord (wordXYN 0x8 x y 0xE) = .ok (.shl x y)) ∧
    (∃ t, exec (.shr x y) s = .next t ∧
      (∀ b, b < 8 → (t.reg x).getLsbD b = (decide (b < 7) && src.getLsbD (b + 1))) ∧
      (x ≠ 0xF → (t.reg 0xF).toNat = (src.getLsbD 0).toNat) ∧ UnchangedBut [.reg x, .reg 0xF] s t) ∧
    (∃ t, exec (.shl x y) s = .next t ∧
      (∀ b, b < 8 → (t.reg x).getLsbD b = (decide (0 < b) && src.getLsbD (b - 1))) ∧
      (x ≠ 0xF → (t.reg 0xF).toNat = (src.getLsbD 7).toNat) ∧ UnchangedBut [.reg x, .reg 0xF] s t)

/-- 42_arithmetic.md, `CXNN` (R173; that the byte is a draw of the cycle is the spec's decision D9, log 6): Vx is the
draw and NN, for every value of the draw, so each bit that is 0 in NN is 0 afterwards and the result is at most NN. -/
def Obligations.RandomByteIsMaskedByTheImmediate : Prop :=
  ∀ (x : Nibble) (nn : Byte) (s : State), decodeWord (wordXNN 0xC x nn) = .ok (.rnd x nn) ∧
    ∃ t, exec (.rnd x nn) s = .next t ∧ t.reg x = s.rand &&& nn ∧
      (∀ b, nn.getLsbD b = false → (t.reg x).getLsbD b = false) ∧ (t.reg x).toNat ≤ nn.toNat ∧
      UnchangedBut [.reg x] s t

/-! ## Index register and memory -/

/-- R191, R192 `ANNN`, `FX1E`: I := NNN; I := (I + Vx) mod 0x1000, with no flag. -/
def Obligations.IndexLoadsAndAddsModulo4096 : Prop :=
  ∀ (x : Nibble) (nnn : Addr) (s : State),
    (decodeWord (wordNNN 0xA nnn) = .ok (.ldI nnn) ∧ decodeWord (wordXNN 0xF x 0x1E) = .ok (.addI x)) ∧
    (∃ t, exec (.ldI nnn) s = .next t ∧ t.i.toNat = nnn.toNat ∧ UnchangedBut [.index] s t) ∧
    (∃ t, exec (.addI x) s = .next t ∧ t.i.toNat = (s.i.toNat + (s.reg x).toNat) % 0x1000 ∧
      UnchangedBut [.index] s t)

/-- 43_index_memory.md, `FX29` (R193; that the whole of Vx counts is the spec's decision D26, log 10):
I := 0x50 + 5 * Vx, never above 0x54B, and memory is not read. -/
def Obligations.FontAddressIsFiveTimesTheRegister : Prop :=
  ∀ (x : Nibble) (s : State), decodeWord (wordXNN 0xF x 0x29) = .ok (.ldF x) ∧
    ∃ t, exec (.ldF x) s = .next t ∧ t.i.toNat = 0x50 + 5 * (s.reg x).toNat ∧ t.i.toNat ≤ 0x54B ∧
      UnchangedBut [.index] s t

/-- 43_index_memory.md, `FX33` (R194, R190; the check before the first store is the spec's decision D5, log 10): the
hundreds, tens and units digits of Vx at the base I, I + 1, I + 2 and no other byte; if I + 2 does not exist,
AddressOutOfRange with the lowest address of the three that does not, and no byte stored. -/
def Obligations.BcdStoresThreeDigitsAtI : Prop :=
  ∀ (x : Nibble) (s : State), Memory.wf s.cfg s.mem = true →
    decodeWord (wordXNN 0xF x 0x33) = .ok (.ldB x) ∧
    (blockBase s + 2 < s.cfg.memSize →
      ∃ t, exec (.ldB x) s = .next t ∧
        (∃ h d u : Byte, t.memRead (blockBase s) = some h ∧ t.memRead (blockBase s + 1) = some d ∧
          t.memRead (blockBase s + 2) = some u ∧ h.toNat ≤ 2 ∧ d.toNat ≤ 9 ∧ u.toNat ≤ 9 ∧
          (s.reg x).toNat = 100 * h.toNat + 10 * d.toNat + u.toNat) ∧
        (∀ a, a < blockBase s ∨ blockBase s + 3 ≤ a → t.memRead a = s.memRead a) ∧ UnchangedBut [.mem] s t) ∧
    (s.cfg.memSize ≤ blockBase s + 2 →
      ∃ t, exec (.ldB x) s = .next t ∧ t.halted = true ∧ t.faultCause = .addressOutOfRange ∧
        t.faultInfo.toNat = (max (blockBase s) s.cfg.memSize) % 0x10000 ∧ UnchangedBut [.latch] s t)

/-- 43_index_memory.md, `FX55` (R195, R190; decision D5, log 10): V[0] to V[X] at I to I + X and no other byte, then
I := (I + X + 1) mod 0x1000; if I + X does not exist, AddressOutOfRange and nothing stored. -/
def Obligations.StoreRegistersWritesABlockAtI : Prop :=
  ∀ (x : Nibble) (s : State), Memory.wf s.cfg s.mem = true →
    decodeWord (wordXNN 0xF x 0x55) = .ok (.stRegs x) ∧
    (blockBase s + x.toNat < s.cfg.memSize →
      ∃ t, exec (.stRegs x) s = .next t ∧
        (∀ r : Nibble, r.toNat ≤ x.toNat → t.memRead (blockBase s + r.toNat) = some (s.reg r)) ∧
        (∀ a, a < blockBase s ∨ blockBase s + x.toNat < a → t.memRead a = s.memRead a) ∧
        t.i.toNat = (s.i.toNat + x.toNat + 1) % 0x1000 ∧ UnchangedBut [.mem, .index] s t) ∧
    (s.cfg.memSize ≤ blockBase s + x.toNat →
      ∃ t, exec (.stRegs x) s = .next t ∧ t.halted = true ∧ t.faultCause = .addressOutOfRange ∧
        t.faultInfo.toNat = (max (blockBase s) s.cfg.memSize) % 0x10000 ∧ UnchangedBut [.latch] s t)

/-- 43_index_memory.md, `FX65` (R196, R190; decision D5, log 10): V[0] to V[X] from I to I + X, higher registers and
memory unchanged, then I := (I + X + 1) mod 0x1000; if I + X does not exist, AddressOutOfRange and nothing loaded. -/
def Obligations.LoadRegistersReadsABlockAtI : Prop :=
  ∀ (x : Nibble) (s : State), decodeWord (wordXNN 0xF x 0x65) = .ok (.ldRegs x) ∧
    (blockBase s + x.toNat < s.cfg.memSize →
      ∃ t, exec (.ldRegs x) s = .next t ∧
        (∀ r : Nibble, r.toNat ≤ x.toNat → some (t.reg r) = s.memRead (blockBase s + r.toNat)) ∧
        (∀ r : Nibble, x.toNat < r.toNat → t.reg r = s.reg r) ∧
        t.i.toNat = (s.i.toNat + x.toNat + 1) % 0x1000 ∧ UnchangedBut (.index :: regsUpTo x) s t) ∧
    (s.cfg.memSize ≤ blockBase s + x.toNat →
      ∃ t, exec (.ldRegs x) s = .next t ∧ t.halted = true ∧ t.faultCause = .addressOutOfRange ∧
        t.faultInfo.toNat = (max (blockBase s) s.cfg.memSize) % 0x10000 ∧ UnchangedBut [.latch] s t)

/-- 43_index_memory.md, the corner case of `FX65`: it is the exact inverse of `FX55` with the same X when I is first put
back, whatever the registers hold by then. -/
def Obligations.LoadRegistersUndoesStoreRegisters : Prop :=
  ∀ (x : Nibble) (s t u : State), Memory.wf s.cfg s.mem = true → s.halted = false →
    blockBase s + x.toNat < s.cfg.memSize → exec (.stRegs x) s = .next t →
    u.cfg = t.cfg → u.mem = t.mem → u.i = s.i →
    ∃ w, exec (.ldRegs x) u = .next w ∧ (∀ r : Nibble, r.toNat ≤ x.toNat → w.reg r = s.reg r) ∧ w.i = t.i

/-! ## Display -/

/-- R210 `00E0`: every pixel off, nothing else by the instruction; the cycle then sets `requires_repaint`, also when the
screen was already blank. -/
def Obligations.ClearScreenTurnsEveryPixelOff : Prop :=
  ∀ s : State, decodeWord 0x00E0 = .ok .cls ∧
    ∃ t, exec .cls s = .next t ∧ (∀ x y, t.pixel x y = false ∧ t.color x y = 0) ∧ UnchangedBut [.fb] s t ∧
      (s.halted = false → ∃ u, runInstr .cls s = .next u ∧ u.requiresRepaint = true ∧ UnchangedBut [.repaint] t u)

/-- 44_display.md, `DXYN` (R211, R212; the bit order of a row is the spec's decision D15, the order of reads D21;
log 10, 11): on the grid each pixel is XORed with the sprite's bit there, the origin wrapped and the pixels clipped; if
some row's address does not exist, AddressOutOfRange with the lowest such address, and no pixel and no VF changes. -/
def Obligations.DrawXorsTheClippedSprite : Prop :=
  ∀ (x y n : Nibble) (s : State), decodeWord (wordXYN 0xD x y n) = .ok (.drw x y n) ∧
    (n = 0 ∨ blockBase s + n.toNat ≤ s.cfg.memSize →
      ∃ t, exec (.drw x y n) s = .next t ∧
        (∀ px py, px < 64 → py < 32 → t.pixel px py = (s.pixel px py ^^ spriteCovers s x y n px py)) ∧
        UnchangedBut [.fb, .reg 0xF] s t) ∧
    (n ≠ 0 → s.cfg.memSize < blockBase s + n.toNat →
      ∃ t, exec (.drw x y n) s = .next t ∧ t.halted = true ∧ t.faultCause = .addressOutOfRange ∧
        t.faultInfo.toNat = (max (blockBase s) s.cfg.memSize) % 0x10000 ∧ UnchangedBut [.latch] s t)

/-- 44_display.md, the collision flag (R213; the forms with X or Y = 0xF rest on the spec's decisions D4 and D21, U6,
log 10): VF is 1 exactly when at least one pixel that was on has been turned off,
else 0. -/
def Obligations.CollisionFlagSaysAPixelWasTurnedOff : Prop :=
  ∀ (x y n : Nibble) (s : State), (n = 0 ∨ blockBase s + n.toNat ≤ s.cfg.memSize) →
    ∃ t, exec (.drw x y n) s = .next t ∧
      ((∃ px py, s.pixel px py = true ∧ t.pixel px py = false) → t.reg 0xF = 1) ∧
      ((¬ ∃ px py, s.pixel px py = true ∧ t.pixel px py = false) → t.reg 0xF = 0)

/-- 44_display.md, a derived sentence of R213: drawing a sprite twice at one origin restores the framebuffer. The origin
is the same when neither X nor Y is VF, which the first draw overwrites. -/
def Obligations.DrawingTwiceRestoresTheFramebuffer : Prop :=
  ∀ (x y n : Nibble) (s t : State), x ≠ 0xF → y ≠ 0xF → s.halted = false →
    (n = 0 ∨ blockBase s + n.toNat ≤ s.cfg.memSize) → exec (.drw x y n) s = .next t →
    ∃ u, exec (.drw x y n) t = .next u ∧ ∀ px py, u.pixel px py = s.pixel px py

/-! ## Keypad and timers -/

/-- 45_keypad_timers.md, `EX9E` and `EXA1` (R230 to R232; that an index above 0xF is fatal is the spec's decision D7,
and the masked skip D27; log 10): skip if the selected latch is pressed, or not pressed; the latch is not cleared. -/
def Obligations.KeySkipsFollowTheSelectedLatch : Prop :=
  ∀ (x : Nibble) (s : State),
    (decodeWord (wordXNN 0xE x 0x9E) = .ok (.skp x) ∧ decodeWord (wordXNN 0xE x 0xA1) = .ok (.sknp x)) ∧
    (∀ k : Nibble, (s.reg x).toNat = k.toNat →
      (∃ t, exec (.skp x) s = .next t ∧ (s.key k = true → t.pc.toNat = (s.pc.toNat + 2) % 0x1000) ∧
        (s.key k = false → t.pc = s.pc) ∧ UnchangedBut [.pc] s t) ∧
      (∃ t, exec (.sknp x) s = .next t ∧ (s.key k = false → t.pc.toNat = (s.pc.toNat + 2) % 0x1000) ∧
        (s.key k = true → t.pc = s.pc) ∧ UnchangedBut [.pc] s t)) ∧
    (0xF < (s.reg x).toNat → ∀ i ∈ [Instr.skp x, .sknp x],
      ∃ t, exec i s = .next t ∧ t.halted = true ∧ t.faultCause = .keyIndexOutOfRange ∧
        t.faultInfo.toNat = (s.reg x).toNat ∧ UnchangedBut [.latch] s t)

/-- 45_keypad_timers.md, `FX0A` (R233; the lowest index is the spec's decision D8, the rewind's arithmetic D27; under
KEY_PICK any-pressed a free value chooses, log 7): with a key pressed Vx is a pressed key's index, the lowest under
KEY_PICK lowest; with none, PC goes back to the instruction's own address and nothing else changes. -/
def Obligations.WaitForKeyTakesAPressedKeyOrRepeats : Prop :=
  ∀ (x : Nibble) (s : State), decodeWord (wordXNN 0xF x 0x0A) = .ok (.ldVxK x) ∧
    ((∃ k, s.key k = true) →
      ∃ t k, exec (.ldVxK x) s = .next t ∧ s.key k = true ∧ (t.reg x).toNat = k.toNat ∧
        (s.cfg.keyPick = .lowest → ∀ j, s.key j = true → k.toNat ≤ j.toNat) ∧ UnchangedBut [.reg x] s t) ∧
    ((∀ k, s.key k = false) →
      ∃ t, exec (.ldVxK x) s = .next t ∧ t.pc.toNat = (0xFFE + s.pc.toNat) % 0x1000 ∧ UnchangedBut [.pc] s t) ∧
    ((∀ k, s.key k = false) → s.pc.toNat ≤ 0xFFF →
      ∃ t, exec (.ldVxK x) s.advance = .next t ∧ t.pc = s.pc ∧ UnchangedBut [] s t)

/-- R234 to R236 `FX07`, `FX15`, `FX18`: Vx := DT, DT := Vx, ST := Vx; `sound_on` follows ST at once, and no instruction
reads ST. -/
def Obligations.TimersMoveToAndFromRegisters : Prop :=
  ∀ (x : Nibble) (s : State),
    (decodeWord (wordXNN 0xF x 0x07) = .ok (.ldVxDt x) ∧ decodeWord (wordXNN 0xF x 0x15) = .ok (.ldDtVx x) ∧
      decodeWord (wordXNN 0xF x 0x18) = .ok (.ldStVx x)) ∧
    (∃ t, exec (.ldVxDt x) s = .next t ∧ t.reg x = s.dt ∧ UnchangedBut [.reg x] s t) ∧
    (∃ t, exec (.ldDtVx x) s = .next t ∧ t.dt = s.reg x ∧ UnchangedBut [.dt] s t) ∧
    (∃ t, exec (.ldStVx x) s = .next t ∧ t.st = s.reg x ∧ t.soundOn = decide (0 < (s.reg x).toNat) ∧
      UnchangedBut [.st] s t) ∧
    (∀ (i : Instr) (b : Byte) (t : State), exec i s = .next t →
      ∃ u, exec i { s with st := b } = .next u ∧ UnchangedBut [.st] t u)
end

