-- ==== Sys2Proof/Laws/Decode.lean ====
section
/-! SUPPORT. The fields of an opcode as numbers, and the fields of the three word builders of the encoder. -/

namespace Sys2Proof

theorem append_toNat {m n : Nat} (a : BitVec m) (b : BitVec n) : (a ++ b).toNat = a.toNat * 2 ^ n + b.toNat := by
  rw [BitVec.toNat_append, ← Nat.shiftLeft_add_eq_or_of_lt b.isLt, Nat.shiftLeft_eq]

/-! ## Fields as numbers (R10) -/

theorem Opcode.family_toNat (op : Word) : (Opcode.family op).toNat = op.toNat / 0x1000 := by
  have := op.isLt
  simp only [Opcode.family, BitVec.extractLsb'_toNat, Nat.shiftRight_eq_div_pow]
  omega

theorem Opcode.x_toNat (op : Word) : (Opcode.x op).toNat = op.toNat / 0x100 % 0x10 := by
  simp only [Opcode.x, BitVec.extractLsb'_toNat, Nat.shiftRight_eq_div_pow]

theorem Opcode.y_toNat (op : Word) : (Opcode.y op).toNat = op.toNat / 0x10 % 0x10 := by
  simp only [Opcode.y, BitVec.extractLsb'_toNat, Nat.shiftRight_eq_div_pow]

theorem Opcode.n_toNat (op : Word) : (Opcode.n op).toNat = op.toNat % 0x10 := by
  simp only [Opcode.n, BitVec.extractLsb'_toNat, Nat.shiftRight_eq_div_pow]
  omega

theorem Opcode.nn_toNat (op : Word) : (Opcode.nn op).toNat = op.toNat % 0x100 := by
  simp only [Opcode.nn, BitVec.extractLsb'_toNat, Nat.shiftRight_eq_div_pow]
  omega

theorem Opcode.nnn_toNat (op : Word) : (Opcode.nnn op).toNat = op.toNat % 0x1000 := by
  simp only [Opcode.nnn, BitVec.extractLsb'_toNat, Nat.shiftRight_eq_div_pow]
  omega

/-- R62: the word of two bytes, the first the high byte. -/
theorem Opcode.ofBytes_toNat (hi lo : Byte) : (Opcode.ofBytes hi lo).toNat = hi.toNat * 256 + lo.toNat :=
  append_toNat hi lo

/-- R62: the two bytes of a word make the word again. -/
theorem Opcode.ofBytes_hiByte_loByte (op : Word) : Opcode.ofBytes (Opcode.hiByte op) (Opcode.loByte op) = op := by
  apply BitVec.eq_of_toNat_eq
  have := op.isLt
  rw [Opcode.ofBytes_toNat]
  simp only [Opcode.hiByte, Opcode.loByte, BitVec.extractLsb'_toNat, Nat.shiftRight_eq_div_pow]
  omega

/-! ## The word builders as numbers (R91) -/

theorem wordNNN_toNat (f : Nibble) (nnn : Addr) : (wordNNN f nnn).toNat = f.toNat * 0x1000 + nnn.toNat := by
  unfold wordNNN
  rw [append_toNat]
  rfl

theorem wordXNN_toNat (f x : Nibble) (nn : Byte) :
    (wordXNN f x nn).toNat = f.toNat * 0x1000 + x.toNat * 0x100 + nn.toNat := by
  unfold wordXNN
  rw [append_toNat, append_toNat]
  omega

theorem wordXYN_toNat (f x y n : Nibble) :
    (wordXYN f x y n).toNat = f.toNat * 0x1000 + x.toNat * 0x100 + y.toNat * 0x10 + n.toNat := by
  unfold wordXYN
  rw [append_toNat, append_toNat, append_toNat]
  omega

/-! ## The fields of the built words -/

@[simp] theorem family_wordNNN (f : Nibble) (nnn : Addr) : Opcode.family (wordNNN f nnn) = f := by
  apply BitVec.eq_of_toNat_eq
  have := nnn.isLt
  rw [Opcode.family_toNat, wordNNN_toNat]; omega

@[simp] theorem nnn_wordNNN (f : Nibble) (nnn : Addr) : Opcode.nnn (wordNNN f nnn) = nnn := by
  apply BitVec.eq_of_toNat_eq
  have := nnn.isLt
  rw [Opcode.nnn_toNat, wordNNN_toNat]; omega

@[simp] theorem family_wordXNN (f x : Nibble) (nn : Byte) : Opcode.family (wordXNN f x nn) = f := by
  apply BitVec.eq_of_toNat_eq
  have := nn.isLt; have := x.isLt
  rw [Opcode.family_toNat, wordXNN_toNat]; omega

@[simp] theorem x_wordXNN (f x : Nibble) (nn : Byte) : Opcode.x (wordXNN f x nn) = x := by
  apply BitVec.eq_of_toNat_eq
  have := nn.isLt; have := x.isLt
  rw [Opcode.x_toNat, wordXNN_toNat]; omega

@[simp] theorem nn_wordXNN (f x : Nibble) (nn : Byte) : Opcode.nn (wordXNN f x nn) = nn := by
  apply BitVec.eq_of_toNat_eq
  have := nn.isLt; have := x.isLt
  rw [Opcode.nn_toNat, wordXNN_toNat]; omega

@[simp] theorem family_wordXYN (f x y n : Nibble) : Opcode.family (wordXYN f x y n) = f := by
  apply BitVec.eq_of_toNat_eq
  have := n.isLt; have := y.isLt; have := x.isLt
  rw [Opcode.family_toNat, wordXYN_toNat]; omega

@[simp] theorem x_wordXYN (f x y n : Nibble) : Opcode.x (wordXYN f x y n) = x := by
  apply BitVec.eq_of_toNat_eq
  have := n.isLt; have := y.isLt; have := x.isLt
  rw [Opcode.x_toNat, wordXYN_toNat]; omega

@[simp] theorem y_wordXYN (f x y n : Nibble) : Opcode.y (wordXYN f x y n) = y := by
  apply BitVec.eq_of_toNat_eq
  have := n.isLt; have := y.isLt; have := x.isLt
  rw [Opcode.y_toNat, wordXYN_toNat]; omega

@[simp] theorem n_wordXYN (f x y n : Nibble) : Opcode.n (wordXYN f x y n) = n := by
  apply BitVec.eq_of_toNat_eq
  have := n.isLt; have := y.isLt; have := x.isLt
  rw [Opcode.n_toNat, wordXYN_toNat]; omega

/-- A word that is rejected is rejected as an unrecognised suffix, with itself as the info (R99, R252). -/
theorem decodeWord_error {op : Word} {e : DecodeError} (h : decodeWord op = .error e) :
    e = .unrecognizedSuffix op := by
  have hf := (Opcode.family op).isLt
  revert h
  unfold decodeWord
  generalize (Opcode.family op).toNat = k at hf
  interval_cases k <;>
    simp only [decodeFamily0, decodeSuffixZero, decodeFamily8, decodeFamilyE, decodeFamilyF] <;>
    (try split) <;> simp <;> exact fun h => h.symm

/-- R100: no word is without a handler. -/
theorem decodeWord_ne_noHandler (op w : Word) : decodeWord op ≠ .error (.noHandler w) := fun h => by
  have := decodeWord_error h
  cases this

end Sys2Proof
end

