-- ==== Sys2Proof/Laws/State.lean ====
section
/-! SUPPORT. One lemma per field of State per update of Ops.lean, Cycle.lean and Events.lean: what the update writes, and
what it leaves. All hold by rfl. -/

namespace Sys2Proof.Machine

@[simp] theorem State.setReg_cfg (s : State) (x : Nibble) (b : Byte) : (s.setReg x b).cfg = s.cfg := rfl
@[simp] theorem State.setReg_v (s : State) (x : Nibble) (b : Byte) : (s.setReg x b).v = s.v.set x.toNat b x.isLt := rfl
@[simp] theorem State.setReg_i (s : State) (x : Nibble) (b : Byte) : (s.setReg x b).i = s.i := rfl
@[simp] theorem State.setReg_pc (s : State) (x : Nibble) (b : Byte) : (s.setReg x b).pc = s.pc := rfl
@[simp] theorem State.setReg_stack (s : State) (x : Nibble) (b : Byte) : (s.setReg x b).stack = s.stack := rfl
@[simp] theorem State.setReg_dt (s : State) (x : Nibble) (b : Byte) : (s.setReg x b).dt = s.dt := rfl
@[simp] theorem State.setReg_st (s : State) (x : Nibble) (b : Byte) : (s.setReg x b).st = s.st := rfl
@[simp] theorem State.setReg_mem (s : State) (x : Nibble) (b : Byte) : (s.setReg x b).mem = s.mem := rfl
@[simp] theorem State.setReg_keys (s : State) (x : Nibble) (b : Byte) : (s.setReg x b).keys = s.keys := rfl
@[simp] theorem State.setReg_fb (s : State) (x : Nibble) (b : Byte) : (s.setReg x b).fb = s.fb := rfl
@[simp] theorem State.setReg_requiresRepaint (s : State) (x : Nibble) (b : Byte) : (s.setReg x b).requiresRepaint = s.requiresRepaint := rfl
@[simp] theorem State.setReg_running (s : State) (x : Nibble) (b : Byte) : (s.setReg x b).running = s.running := rfl
@[simp] theorem State.setReg_halted (s : State) (x : Nibble) (b : Byte) : (s.setReg x b).halted = s.halted := rfl
@[simp] theorem State.setReg_faultCause (s : State) (x : Nibble) (b : Byte) : (s.setReg x b).faultCause = s.faultCause := rfl
@[simp] theorem State.setReg_faultInfo (s : State) (x : Nibble) (b : Byte) : (s.setReg x b).faultInfo = s.faultInfo := rfl
@[simp] theorem State.setReg_started (s : State) (x : Nibble) (b : Byte) : (s.setReg x b).started = s.started := rfl
@[simp] theorem State.setReg_rand (s : State) (x : Nibble) (b : Byte) : (s.setReg x b).rand = s.rand := rfl
@[simp] theorem State.setReg_draws (s : State) (x : Nibble) (b : Byte) : (s.setReg x b).draws = s.draws := rfl
@[simp] theorem State.setReg_pending (s : State) (x : Nibble) (b : Byte) : (s.setReg x b).pending = s.pending := rfl

@[simp] theorem State.storeBlock_cfg (s : State) (a : Nat) (bs : List Byte) : (s.storeBlock a bs).cfg = s.cfg := rfl
@[simp] theorem State.storeBlock_v (s : State) (a : Nat) (bs : List Byte) : (s.storeBlock a bs).v = s.v := rfl
@[simp] theorem State.storeBlock_i (s : State) (a : Nat) (bs : List Byte) : (s.storeBlock a bs).i = s.i := rfl
@[simp] theorem State.storeBlock_pc (s : State) (a : Nat) (bs : List Byte) : (s.storeBlock a bs).pc = s.pc := rfl
@[simp] theorem State.storeBlock_stack (s : State) (a : Nat) (bs : List Byte) : (s.storeBlock a bs).stack = s.stack := rfl
@[simp] theorem State.storeBlock_dt (s : State) (a : Nat) (bs : List Byte) : (s.storeBlock a bs).dt = s.dt := rfl
@[simp] theorem State.storeBlock_st (s : State) (a : Nat) (bs : List Byte) : (s.storeBlock a bs).st = s.st := rfl
@[simp] theorem State.storeBlock_mem (s : State) (a : Nat) (bs : List Byte) : (s.storeBlock a bs).mem = Memory.writeBlock s.cfg s.mem a bs := rfl
@[simp] theorem State.storeBlock_keys (s : State) (a : Nat) (bs : List Byte) : (s.storeBlock a bs).keys = s.keys := rfl
@[simp] theorem State.storeBlock_fb (s : State) (a : Nat) (bs : List Byte) : (s.storeBlock a bs).fb = s.fb := rfl
@[simp] theorem State.storeBlock_requiresRepaint (s : State) (a : Nat) (bs : List Byte) : (s.storeBlock a bs).requiresRepaint = s.requiresRepaint := rfl
@[simp] theorem State.storeBlock_running (s : State) (a : Nat) (bs : List Byte) : (s.storeBlock a bs).running = s.running := rfl
@[simp] theorem State.storeBlock_halted (s : State) (a : Nat) (bs : List Byte) : (s.storeBlock a bs).halted = s.halted := rfl
@[simp] theorem State.storeBlock_faultCause (s : State) (a : Nat) (bs : List Byte) : (s.storeBlock a bs).faultCause = s.faultCause := rfl
@[simp] theorem State.storeBlock_faultInfo (s : State) (a : Nat) (bs : List Byte) : (s.storeBlock a bs).faultInfo = s.faultInfo := rfl
@[simp] theorem State.storeBlock_started (s : State) (a : Nat) (bs : List Byte) : (s.storeBlock a bs).started = s.started := rfl
@[simp] theorem State.storeBlock_rand (s : State) (a : Nat) (bs : List Byte) : (s.storeBlock a bs).rand = s.rand := rfl
@[simp] theorem State.storeBlock_draws (s : State) (a : Nat) (bs : List Byte) : (s.storeBlock a bs).draws = s.draws := rfl
@[simp] theorem State.storeBlock_pending (s : State) (a : Nat) (bs : List Byte) : (s.storeBlock a bs).pending = s.pending := rfl

@[simp] theorem State.advance_cfg (s : State) : s.advance.cfg = s.cfg := rfl
@[simp] theorem State.advance_v (s : State) : s.advance.v = s.v := rfl
@[simp] theorem State.advance_i (s : State) : s.advance.i = s.i := rfl
@[simp] theorem State.advance_pc (s : State) : s.advance.pc = wrap12 (s.pc.toNat + 2) := rfl
@[simp] theorem State.advance_stack (s : State) : s.advance.stack = s.stack := rfl
@[simp] theorem State.advance_dt (s : State) : s.advance.dt = s.dt := rfl
@[simp] theorem State.advance_st (s : State) : s.advance.st = s.st := rfl
@[simp] theorem State.advance_mem (s : State) : s.advance.mem = s.mem := rfl
@[simp] theorem State.advance_keys (s : State) : s.advance.keys = s.keys := rfl
@[simp] theorem State.advance_fb (s : State) : s.advance.fb = s.fb := rfl
@[simp] theorem State.advance_requiresRepaint (s : State) : s.advance.requiresRepaint = s.requiresRepaint := rfl
@[simp] theorem State.advance_running (s : State) : s.advance.running = s.running := rfl
@[simp] theorem State.advance_halted (s : State) : s.advance.halted = s.halted := rfl
@[simp] theorem State.advance_faultCause (s : State) : s.advance.faultCause = s.faultCause := rfl
@[simp] theorem State.advance_faultInfo (s : State) : s.advance.faultInfo = s.faultInfo := rfl
@[simp] theorem State.advance_started (s : State) : s.advance.started = s.started := rfl
@[simp] theorem State.advance_rand (s : State) : s.advance.rand = s.rand := rfl
@[simp] theorem State.advance_draws (s : State) : s.advance.draws = s.draws := rfl
@[simp] theorem State.advance_pending (s : State) : s.advance.pending = s.pending := rfl

@[simp] theorem State.rewind_cfg (s : State) : s.rewind.cfg = s.cfg := rfl
@[simp] theorem State.rewind_v (s : State) : s.rewind.v = s.v := rfl
@[simp] theorem State.rewind_i (s : State) : s.rewind.i = s.i := rfl
@[simp] theorem State.rewind_pc (s : State) : s.rewind.pc = wrap12 (0xFFE + s.pc.toNat) := rfl
@[simp] theorem State.rewind_stack (s : State) : s.rewind.stack = s.stack := rfl
@[simp] theorem State.rewind_dt (s : State) : s.rewind.dt = s.dt := rfl
@[simp] theorem State.rewind_st (s : State) : s.rewind.st = s.st := rfl
@[simp] theorem State.rewind_mem (s : State) : s.rewind.mem = s.mem := rfl
@[simp] theorem State.rewind_keys (s : State) : s.rewind.keys = s.keys := rfl
@[simp] theorem State.rewind_fb (s : State) : s.rewind.fb = s.fb := rfl
@[simp] theorem State.rewind_requiresRepaint (s : State) : s.rewind.requiresRepaint = s.requiresRepaint := rfl
@[simp] theorem State.rewind_running (s : State) : s.rewind.running = s.running := rfl
@[simp] theorem State.rewind_halted (s : State) : s.rewind.halted = s.halted := rfl
@[simp] theorem State.rewind_faultCause (s : State) : s.rewind.faultCause = s.faultCause := rfl
@[simp] theorem State.rewind_faultInfo (s : State) : s.rewind.faultInfo = s.faultInfo := rfl
@[simp] theorem State.rewind_started (s : State) : s.rewind.started = s.started := rfl
@[simp] theorem State.rewind_rand (s : State) : s.rewind.rand = s.rand := rfl
@[simp] theorem State.rewind_draws (s : State) : s.rewind.draws = s.draws := rfl
@[simp] theorem State.rewind_pending (s : State) : s.rewind.pending = s.pending := rfl

@[simp] theorem State.raise_cfg (s : State) (c : FaultCause) (w : Word) : (s.raise c w).cfg = s.cfg := rfl
@[simp] theorem State.raise_v (s : State) (c : FaultCause) (w : Word) : (s.raise c w).v = s.v := rfl
@[simp] theorem State.raise_i (s : State) (c : FaultCause) (w : Word) : (s.raise c w).i = s.i := rfl
@[simp] theorem State.raise_pc (s : State) (c : FaultCause) (w : Word) : (s.raise c w).pc = s.pc := rfl
@[simp] theorem State.raise_stack (s : State) (c : FaultCause) (w : Word) : (s.raise c w).stack = s.stack := rfl
@[simp] theorem State.raise_dt (s : State) (c : FaultCause) (w : Word) : (s.raise c w).dt = s.dt := rfl
@[simp] theorem State.raise_st (s : State) (c : FaultCause) (w : Word) : (s.raise c w).st = s.st := rfl
@[simp] theorem State.raise_mem (s : State) (c : FaultCause) (w : Word) : (s.raise c w).mem = s.mem := rfl
@[simp] theorem State.raise_keys (s : State) (c : FaultCause) (w : Word) : (s.raise c w).keys = s.keys := rfl
@[simp] theorem State.raise_fb (s : State) (c : FaultCause) (w : Word) : (s.raise c w).fb = s.fb := rfl
@[simp] theorem State.raise_requiresRepaint (s : State) (c : FaultCause) (w : Word) : (s.raise c w).requiresRepaint = s.requiresRepaint := rfl
@[simp] theorem State.raise_running (s : State) (c : FaultCause) (w : Word) : (s.raise c w).running = s.running := rfl
@[simp] theorem State.raise_halted (s : State) (c : FaultCause) (w : Word) : (s.raise c w).halted = true := rfl
@[simp] theorem State.raise_faultCause (s : State) (c : FaultCause) (w : Word) : (s.raise c w).faultCause = c := rfl
@[simp] theorem State.raise_faultInfo (s : State) (c : FaultCause) (w : Word) : (s.raise c w).faultInfo = w := rfl
@[simp] theorem State.raise_started (s : State) (c : FaultCause) (w : Word) : (s.raise c w).started = s.started := rfl
@[simp] theorem State.raise_rand (s : State) (c : FaultCause) (w : Word) : (s.raise c w).rand = s.rand := rfl
@[simp] theorem State.raise_draws (s : State) (c : FaultCause) (w : Word) : (s.raise c w).draws = s.draws := rfl
@[simp] theorem State.raise_pending (s : State) (c : FaultCause) (w : Word) : (s.raise c w).pending = s.pending := rfl

@[simp] theorem State.raiseAddress_cfg (s : State) (a : Nat) : (s.raiseAddress a).cfg = s.cfg := rfl
@[simp] theorem State.raiseAddress_v (s : State) (a : Nat) : (s.raiseAddress a).v = s.v := rfl
@[simp] theorem State.raiseAddress_i (s : State) (a : Nat) : (s.raiseAddress a).i = s.i := rfl
@[simp] theorem State.raiseAddress_pc (s : State) (a : Nat) : (s.raiseAddress a).pc = s.pc := rfl
@[simp] theorem State.raiseAddress_stack (s : State) (a : Nat) : (s.raiseAddress a).stack = s.stack := rfl
@[simp] theorem State.raiseAddress_dt (s : State) (a : Nat) : (s.raiseAddress a).dt = s.dt := rfl
@[simp] theorem State.raiseAddress_st (s : State) (a : Nat) : (s.raiseAddress a).st = s.st := rfl
@[simp] theorem State.raiseAddress_mem (s : State) (a : Nat) : (s.raiseAddress a).mem = s.mem := rfl
@[simp] theorem State.raiseAddress_keys (s : State) (a : Nat) : (s.raiseAddress a).keys = s.keys := rfl
@[simp] theorem State.raiseAddress_fb (s : State) (a : Nat) : (s.raiseAddress a).fb = s.fb := rfl
@[simp] theorem State.raiseAddress_requiresRepaint (s : State) (a : Nat) : (s.raiseAddress a).requiresRepaint = s.requiresRepaint := rfl
@[simp] theorem State.raiseAddress_running (s : State) (a : Nat) : (s.raiseAddress a).running = s.running := rfl
@[simp] theorem State.raiseAddress_halted (s : State) (a : Nat) : (s.raiseAddress a).halted = true := rfl
@[simp] theorem State.raiseAddress_faultCause (s : State) (a : Nat) : (s.raiseAddress a).faultCause = .addressOutOfRange := rfl
@[simp] theorem State.raiseAddress_faultInfo (s : State) (a : Nat) : (s.raiseAddress a).faultInfo = BitVec.ofNat 16 a := rfl
@[simp] theorem State.raiseAddress_started (s : State) (a : Nat) : (s.raiseAddress a).started = s.started := rfl
@[simp] theorem State.raiseAddress_rand (s : State) (a : Nat) : (s.raiseAddress a).rand = s.rand := rfl
@[simp] theorem State.raiseAddress_draws (s : State) (a : Nat) : (s.raiseAddress a).draws = s.draws := rfl
@[simp] theorem State.raiseAddress_pending (s : State) (a : Nat) : (s.raiseAddress a).pending = s.pending := rfl

@[simp] theorem State.beginCycle_cfg (s : State) (r : Byte) : (s.beginCycle r).cfg = s.cfg := rfl
@[simp] theorem State.beginCycle_v (s : State) (r : Byte) : (s.beginCycle r).v = s.v := rfl
@[simp] theorem State.beginCycle_i (s : State) (r : Byte) : (s.beginCycle r).i = s.i := rfl
@[simp] theorem State.beginCycle_pc (s : State) (r : Byte) : (s.beginCycle r).pc = s.pc := rfl
@[simp] theorem State.beginCycle_stack (s : State) (r : Byte) : (s.beginCycle r).stack = s.stack := rfl
@[simp] theorem State.beginCycle_dt (s : State) (r : Byte) : (s.beginCycle r).dt = s.dt := rfl
@[simp] theorem State.beginCycle_st (s : State) (r : Byte) : (s.beginCycle r).st = s.st := rfl
@[simp] theorem State.beginCycle_mem (s : State) (r : Byte) : (s.beginCycle r).mem = s.mem := rfl
@[simp] theorem State.beginCycle_keys (s : State) (r : Byte) : (s.beginCycle r).keys = s.keys := rfl
@[simp] theorem State.beginCycle_fb (s : State) (r : Byte) : (s.beginCycle r).fb = s.fb := rfl
@[simp] theorem State.beginCycle_requiresRepaint (s : State) (r : Byte) : (s.beginCycle r).requiresRepaint = s.requiresRepaint := rfl
@[simp] theorem State.beginCycle_running (s : State) (r : Byte) : (s.beginCycle r).running = s.running := rfl
@[simp] theorem State.beginCycle_halted (s : State) (r : Byte) : (s.beginCycle r).halted = s.halted := rfl
@[simp] theorem State.beginCycle_faultCause (s : State) (r : Byte) : (s.beginCycle r).faultCause = s.faultCause := rfl
@[simp] theorem State.beginCycle_faultInfo (s : State) (r : Byte) : (s.beginCycle r).faultInfo = s.faultInfo := rfl
@[simp] theorem State.beginCycle_started (s : State) (r : Byte) : (s.beginCycle r).started = true := rfl
@[simp] theorem State.beginCycle_rand (s : State) (r : Byte) : (s.beginCycle r).rand = r := rfl
@[simp] theorem State.beginCycle_draws (s : State) (r : Byte) : (s.beginCycle r).draws = s.draws + 1 := rfl
@[simp] theorem State.beginCycle_pending (s : State) (r : Byte) : (s.beginCycle r).pending = s.pending := rfl

@[simp] theorem State.setKey_cfg (s : State) (k : Nibble) (b : Bool) : (s.setKey k b).cfg = s.cfg := rfl
@[simp] theorem State.setKey_v (s : State) (k : Nibble) (b : Bool) : (s.setKey k b).v = s.v := rfl
@[simp] theorem State.setKey_i (s : State) (k : Nibble) (b : Bool) : (s.setKey k b).i = s.i := rfl
@[simp] theorem State.setKey_pc (s : State) (k : Nibble) (b : Bool) : (s.setKey k b).pc = s.pc := rfl
@[simp] theorem State.setKey_stack (s : State) (k : Nibble) (b : Bool) : (s.setKey k b).stack = s.stack := rfl
@[simp] theorem State.setKey_dt (s : State) (k : Nibble) (b : Bool) : (s.setKey k b).dt = s.dt := rfl
@[simp] theorem State.setKey_st (s : State) (k : Nibble) (b : Bool) : (s.setKey k b).st = s.st := rfl
@[simp] theorem State.setKey_mem (s : State) (k : Nibble) (b : Bool) : (s.setKey k b).mem = s.mem := rfl
@[simp] theorem State.setKey_keys (s : State) (k : Nibble) (b : Bool) : (s.setKey k b).keys = s.keys.set k.toNat b k.isLt := rfl
@[simp] theorem State.setKey_fb (s : State) (k : Nibble) (b : Bool) : (s.setKey k b).fb = s.fb := rfl
@[simp] theorem State.setKey_requiresRepaint (s : State) (k : Nibble) (b : Bool) : (s.setKey k b).requiresRepaint = s.requiresRepaint := rfl
@[simp] theorem State.setKey_running (s : State) (k : Nibble) (b : Bool) : (s.setKey k b).running = s.running := rfl
@[simp] theorem State.setKey_halted (s : State) (k : Nibble) (b : Bool) : (s.setKey k b).halted = s.halted := rfl
@[simp] theorem State.setKey_faultCause (s : State) (k : Nibble) (b : Bool) : (s.setKey k b).faultCause = s.faultCause := rfl
@[simp] theorem State.setKey_faultInfo (s : State) (k : Nibble) (b : Bool) : (s.setKey k b).faultInfo = s.faultInfo := rfl
@[simp] theorem State.setKey_started (s : State) (k : Nibble) (b : Bool) : (s.setKey k b).started = s.started := rfl
@[simp] theorem State.setKey_rand (s : State) (k : Nibble) (b : Bool) : (s.setKey k b).rand = s.rand := rfl
@[simp] theorem State.setKey_draws (s : State) (k : Nibble) (b : Bool) : (s.setKey k b).draws = s.draws := rfl
@[simp] theorem State.setKey_pending (s : State) (k : Nibble) (b : Bool) : (s.setKey k b).pending = s.pending := rfl

@[simp] theorem State.clearRepaint_cfg (s : State) : s.clearRepaint.cfg = s.cfg := rfl
@[simp] theorem State.clearRepaint_v (s : State) : s.clearRepaint.v = s.v := rfl
@[simp] theorem State.clearRepaint_i (s : State) : s.clearRepaint.i = s.i := rfl
@[simp] theorem State.clearRepaint_pc (s : State) : s.clearRepaint.pc = s.pc := rfl
@[simp] theorem State.clearRepaint_stack (s : State) : s.clearRepaint.stack = s.stack := rfl
@[simp] theorem State.clearRepaint_dt (s : State) : s.clearRepaint.dt = s.dt := rfl
@[simp] theorem State.clearRepaint_st (s : State) : s.clearRepaint.st = s.st := rfl
@[simp] theorem State.clearRepaint_mem (s : State) : s.clearRepaint.mem = s.mem := rfl
@[simp] theorem State.clearRepaint_keys (s : State) : s.clearRepaint.keys = s.keys := rfl
@[simp] theorem State.clearRepaint_fb (s : State) : s.clearRepaint.fb = s.fb := rfl
@[simp] theorem State.clearRepaint_requiresRepaint (s : State) : s.clearRepaint.requiresRepaint = false := rfl
@[simp] theorem State.clearRepaint_running (s : State) : s.clearRepaint.running = s.running := rfl
@[simp] theorem State.clearRepaint_halted (s : State) : s.clearRepaint.halted = s.halted := rfl
@[simp] theorem State.clearRepaint_faultCause (s : State) : s.clearRepaint.faultCause = s.faultCause := rfl
@[simp] theorem State.clearRepaint_faultInfo (s : State) : s.clearRepaint.faultInfo = s.faultInfo := rfl
@[simp] theorem State.clearRepaint_started (s : State) : s.clearRepaint.started = s.started := rfl
@[simp] theorem State.clearRepaint_rand (s : State) : s.clearRepaint.rand = s.rand := rfl
@[simp] theorem State.clearRepaint_draws (s : State) : s.clearRepaint.draws = s.draws := rfl
@[simp] theorem State.clearRepaint_pending (s : State) : s.clearRepaint.pending = s.pending := rfl

@[simp] theorem State.quit_cfg (s : State) : s.quit.cfg = s.cfg := rfl
@[simp] theorem State.quit_v (s : State) : s.quit.v = s.v := rfl
@[simp] theorem State.quit_i (s : State) : s.quit.i = s.i := rfl
@[simp] theorem State.quit_pc (s : State) : s.quit.pc = s.pc := rfl
@[simp] theorem State.quit_stack (s : State) : s.quit.stack = s.stack := rfl
@[simp] theorem State.quit_dt (s : State) : s.quit.dt = s.dt := rfl
@[simp] theorem State.quit_st (s : State) : s.quit.st = s.st := rfl
@[simp] theorem State.quit_mem (s : State) : s.quit.mem = s.mem := rfl
@[simp] theorem State.quit_keys (s : State) : s.quit.keys = s.keys := rfl
@[simp] theorem State.quit_fb (s : State) : s.quit.fb = s.fb := rfl
@[simp] theorem State.quit_requiresRepaint (s : State) : s.quit.requiresRepaint = s.requiresRepaint := rfl
@[simp] theorem State.quit_running (s : State) : s.quit.running = false := rfl
@[simp] theorem State.quit_halted (s : State) : s.quit.halted = s.halted := rfl
@[simp] theorem State.quit_faultCause (s : State) : s.quit.faultCause = s.faultCause := rfl
@[simp] theorem State.quit_faultInfo (s : State) : s.quit.faultInfo = s.faultInfo := rfl
@[simp] theorem State.quit_started (s : State) : s.quit.started = s.started := rfl
@[simp] theorem State.quit_rand (s : State) : s.quit.rand = s.rand := rfl
@[simp] theorem State.quit_draws (s : State) : s.quit.draws = s.draws := rfl
@[simp] theorem State.quit_pending (s : State) : s.quit.pending = s.pending := rfl

end Sys2Proof.Machine
end

