-- ==== Sys2Proof/Laws/Memory.lean ====
section
/-! SUPPORT. The laws of memory: a stored byte reads back, every other address keeps its byte, and every memory operation
keeps the canonical form. -/

namespace Sys2Proof.Machine

variable {c : Config} {m : Memory} {lo a a' : Nat} {b : Byte}

theorem Memory.wfFrom_cons {b' : Byte} :
    Memory.wfFrom c lo ((a', b') :: m) = true ↔
      lo ≤ a' ∧ a' < c.memSize ∧ b' ≠ c.resetByte a' ∧ Memory.wfFrom c (a' + 1) m = true := by
  simp [Memory.wfFrom, and_assoc]

/-- A canonical form from a higher address on is one from a lower address on. -/
theorem Memory.wfFrom_mono {lo' : Nat} (h : Memory.wfFrom c lo m = true) (hl : lo' ≤ lo) :
    Memory.wfFrom c lo' m = true := by
  cases m with
  | nil => rfl
  | cons e m =>
    obtain ⟨a', b'⟩ := e
    rw [Memory.wfFrom_cons] at h ⊢
    exact ⟨by omega, h.2⟩

/-- Below the first address a canonical memory reads as after reset. -/
theorem Memory.read_below (h : Memory.wfFrom c lo m = true) (ha : a < lo) :
    Memory.read c m a = c.resetByte a := by
  induction m generalizing lo with
  | nil => rfl
  | cons e m ih =>
    obtain ⟨a', b'⟩ := e
    obtain ⟨h1, -, -, h4⟩ := Memory.wfFrom_cons.1 h
    rw [Memory.read, if_neg (by omega)]
    exact ih h4 (by omega)

/-- What a memory with `b` listed at `a`, if need be, in front of addresses above `a` reads as. -/
theorem Memory.read_enter (h : Memory.wfFrom c (a + 1) m = true) :
    Memory.read c (Memory.enter c a b m) a' = if a' = a then b else Memory.read c m a' := by
  unfold Memory.enter
  split
  · next hb =>
    split
    · next ha => rw [ha, hb]; exact Memory.read_below h (Nat.lt_succ_self a)
    · rfl
  · rfl

/-- Read after write: the byte stored at its address, and the old byte at every other. -/
theorem Memory.read_write (h : Memory.wfFrom c lo m = true) :
    Memory.read c (Memory.write c m a b) a' = if a' = a then b else Memory.read c m a' := by
  induction m generalizing lo with
  | nil => exact Memory.read_enter (m := []) rfl
  | cons e m ih =>
    obtain ⟨a1, b1⟩ := e
    obtain ⟨h1, h2, h3, h4⟩ := Memory.wfFrom_cons.1 h
    unfold Memory.write
    split
    · exact Memory.read_enter (Memory.wfFrom_cons.2 ⟨by omega, h2, h3, h4⟩)
    · split
      · next heq =>
        subst heq
        rw [Memory.read_enter h4]
        simp only [Memory.read]
        split <;> rfl
      · next hne =>
        simp only [Memory.read, ih h4]
        by_cases h5 : a' = a1
        · rw [if_pos h5, if_neg (by omega), if_pos h5]
        · rw [if_neg h5, if_neg h5]

/-- An entry at `a` is seen at no other address, canonical or not. -/
theorem Memory.read_enter_of_ne (h : a' ≠ a) : Memory.read c (Memory.enter c a b m) a' = Memory.read c m a' := by
  unfold Memory.enter
  split
  · rfl
  · rw [Memory.read, if_neg h]

/-- A store is seen at no other address, in any memory, canonical or not. -/
theorem Memory.read_write_of_ne (h : a' ≠ a) : Memory.read c (Memory.write c m a b) a' = Memory.read c m a' := by
  induction m with
  | nil => exact Memory.read_enter_of_ne (m := []) h
  | cons e m ih =>
    obtain ⟨a1, b1⟩ := e
    unfold Memory.write
    split
    · exact Memory.read_enter_of_ne h
    · split
      · next heq => subst heq; rw [Memory.read_enter_of_ne h, Memory.read, if_neg h]
      · simp only [Memory.read, ih]

/-- A block of stores is seen at no address outside it, in any memory, canonical or not. -/
theorem Memory.read_writeBlock_outside (bs : List Byte) (h : a' < a ∨ a + bs.length ≤ a') :
    Memory.read c (Memory.writeBlock c m a bs) a' = Memory.read c m a' := by
  induction bs generalizing m a with
  | nil => rfl
  | cons b bs ih =>
    simp only [List.length_cons] at h
    rw [Memory.writeBlock, ih (by omega), Memory.read_write_of_ne (by omega)]

theorem Memory.wf_enter (ha : lo ≤ a) (hs : a < c.memSize) (h : Memory.wfFrom c (a + 1) m = true) :
    Memory.wfFrom c lo (Memory.enter c a b m) = true := by
  unfold Memory.enter
  split
  · exact Memory.wfFrom_mono h (by omega)
  · next hb => exact Memory.wfFrom_cons.2 ⟨ha, hs, hb, h⟩

/-- Storing a byte at an address that exists keeps the canonical form. -/
theorem Memory.wfFrom_write (h : Memory.wfFrom c lo m = true) (ha : lo ≤ a) (hs : a < c.memSize) :
    Memory.wfFrom c lo (Memory.write c m a b) = true := by
  induction m generalizing lo with
  | nil => exact Memory.wf_enter (m := []) ha hs rfl
  | cons e m ih =>
    obtain ⟨a1, b1⟩ := e
    obtain ⟨h1, h2, h3, h4⟩ := Memory.wfFrom_cons.1 h
    unfold Memory.write
    split
    · exact Memory.wf_enter ha hs (Memory.wfFrom_cons.2 ⟨by omega, h2, h3, h4⟩)
    · split
      · next heq => subst heq; exact Memory.wf_enter ha hs h4
      · exact Memory.wfFrom_cons.2 ⟨h1, h2, h3, ih h4 (by omega)⟩

/-- `Memory.wf` is kept by a store at an address that exists. -/
theorem Memory.wf_write (h : Memory.wf c m = true) (hs : a < c.memSize) :
    Memory.wf c (Memory.write c m a b) = true :=
  Memory.wfFrom_write h (Nat.zero_le _) hs

/-- `Memory.wf` is kept by a block of stores at addresses that exist. -/
theorem Memory.wf_writeBlock (bs : List Byte) (h : Memory.wf c m = true) (hs : a + bs.length ≤ c.memSize) :
    Memory.wf c (Memory.writeBlock c m a bs) = true := by
  induction bs generalizing m a with
  | nil => exact h
  | cons b bs ih =>
    simp only [List.length_cons] at hs
    exact ih (Memory.wf_write h (by omega)) (by omega)

/-- Read after a block of stores: byte `k` of the block at `a + k`, the old byte everywhere else. -/
theorem Memory.read_writeBlock (bs : List Byte) (h : Memory.wf c m = true) (hs : a + bs.length ≤ c.memSize) :
    Memory.read c (Memory.writeBlock c m a bs) a' =
      if a ≤ a' ∧ a' < a + bs.length then bs.getD (a' - a) 0 else Memory.read c m a' := by
  induction bs generalizing m a with
  | nil => rw [if_neg (by simp)]; rfl
  | cons b bs ih =>
    simp only [List.length_cons] at hs
    rw [Memory.writeBlock, ih (Memory.wf_write h (by omega)) (by omega), Memory.read_write h, List.length_cons]
    by_cases h1 : a' = a
    · subst h1
      rw [if_neg (by omega), if_pos rfl, if_pos (by omega), Nat.sub_self]
      rfl
    · rw [if_neg h1]
      by_cases h2 : a + 1 ≤ a' ∧ a' < a + 1 + bs.length
      · rw [if_pos h2, if_pos (by omega), show a' - a = (a' - (a + 1)) + 1 by omega, List.getD_cons_succ]
      · rw [if_neg h2, if_neg (by omega)]

/-- Reset memory lists nothing and is canonical. -/
theorem State.resetWith_wf (c : Config) : Memory.wf (State.resetWith c).cfg (State.resetWith c).mem = true := rfl

/-! ## The checked accesses -/

theorem State.memRead_of_lt {s : State} (h : a < s.cfg.memSize) :
    s.memRead a = some (Memory.read s.cfg s.mem a) := by simp [State.memRead, h]

theorem State.memRead_of_ge {s : State} (h : s.cfg.memSize ≤ a) : s.memRead a = none := by
  simp [State.memRead, Nat.not_lt.2 h]

/-- Two states with the same memory read alike. -/
theorem State.memRead_congr {s t : State} (hc : t.cfg = s.cfg) (hm : t.mem = s.mem) : t.memRead a = s.memRead a := by
  simp [State.memRead, hc, hm]

theorem State.memWrite_of_lt {s : State} (h : a < s.cfg.memSize) :
    s.memWrite a b = some { s with mem := Memory.write s.cfg s.mem a b } := by simp [State.memWrite, h]

theorem State.memWrite_of_ge {s : State} (h : s.cfg.memSize ≤ a) : s.memWrite a b = none := by
  simp [State.memWrite, Nat.not_lt.2 h]

/-- R190: the check passes exactly when the block is empty or fits below MEM_SIZE. -/
theorem State.blockOutOfRange_eq_none {s : State} {base n : Nat} :
    s.blockOutOfRange base n = none ↔ n = 0 ∨ base + n ≤ s.cfg.memSize := by
  unfold State.blockOutOfRange
  split <;> simp <;> omega

/-- R190: otherwise it gives the lowest address of the block that does not exist. -/
theorem State.blockOutOfRange_eq_some {s : State} {base n a : Nat} :
    s.blockOutOfRange base n = some a ↔ (n ≠ 0 ∧ s.cfg.memSize < base + n) ∧ a = max base s.cfg.memSize := by
  unfold State.blockOutOfRange
  split <;> simp <;> omega

/-- R190: a block of stores leaves every byte outside it as it was. -/
theorem State.memRead_storeBlock_outside (s : State) {base : Nat} (bs : List Byte)
    (h : a < base ∨ base + bs.length ≤ a) : (s.storeBlock base bs).memRead a = s.memRead a := by
  simp only [State.memRead, State.storeBlock, Memory.read_writeBlock_outside bs h]

@[simp] theorem State.readBlock_length (s : State) (base n : Nat) : (s.readBlock base n).length = n := by
  simp [State.readBlock]

theorem State.readBlock_getD {s : State} {base n k : Nat} (h : k < n) :
    (s.readBlock base n).getD k 0 = Memory.read s.cfg s.mem (base + k) := by
  simp [State.readBlock, List.getD, h]

end Sys2Proof.Machine
end

