-- ==== Sys2Proof/Laws/Pixels.lean ====
section
/-! SUPPORT. The laws of the framebuffer and of the innermost step of a drawing. -/

namespace Sys2Proof.Machine

/-- What a pixel reads as after a pixel of the grid is written. -/
theorem Frame.get_put (f : Frame) (b : Bool) {x y : Nat} (hx : x < 64) (hy : y < 32) (px py : Nat) :
    (f.put x y b).get px py = if px = x ∧ py = y then b else f.get px py := by
  unfold Frame.put
  rw [dif_pos ⟨hx, hy⟩]
  unfold Frame.get
  by_cases h : px < 64 ∧ py < 32
  · rw [dif_pos h, dif_pos h]
    by_cases h1 : py = y
    · subst h1
      by_cases h2 : px = x
      · subst h2; simp
      · simp [h2, Ne.symm h2]
    · simp [h1, Ne.symm h1]
  · rw [dif_neg h, dif_neg h, if_neg (by omega)]

/-- A pixel outside the grid reads as off. -/
theorem Frame.get_off_grid (f : Frame) {px py : Nat} (h : ¬ (px < 64 ∧ py < 32)) : f.get px py = false := by
  unfold Frame.get; rw [dif_neg h]

@[simp] theorem Frame.get_blank (px py : Nat) : Frame.blank.get px py = false := by
  unfold Frame.get Frame.blank
  split <;> simp

/-- Everything the innermost step of R212 can do: toggle one pixel of the grid and note whether it was lit, or
nothing. -/
theorem Drawing.pixel_cases (ox oy : Nat) (row : Byte) (r c : Nat) (d : Drawing) :
    ((spriteBit row c = true ∧ ox + c < 64 ∧ oy + r < 32) ∧
      d.pixel ox oy row r c =
        ⟨d.fb.put (ox + c) (oy + r) (!d.fb.get (ox + c) (oy + r)), d.collision || d.fb.get (ox + c) (oy + r)⟩) ∨
    (¬ (spriteBit row c = true ∧ ox + c < 64 ∧ oy + r < 32) ∧ d.pixel ox oy row r c = d) := by
  unfold Drawing.pixel
  split
  · next hb =>
    split
    · next hg => exact .inl ⟨⟨hb, by omega, by omega⟩, rfl⟩
    · next hg => exact .inr ⟨by rintro ⟨-, h1, h2⟩; omega, rfl⟩
  · next hb => exact .inr ⟨fun h => hb h.1, rfl⟩

end Sys2Proof.Machine
end

