-- ==== Sys2Proof/Laws/Registers.lean ====
section
/-! SUPPORT. The laws of the general registers, the key latches and the return stack. -/

namespace Sys2Proof.Machine

theorem Nibble.toNat_ofNat {k : Nat} (h : k < 16) : (BitVec.ofNat 4 k).toNat = k := by
  simp only [BitVec.toNat_ofNat]; omega

theorem Nibble.ofNat_toNat (x : Nibble) : BitVec.ofNat 4 x.toNat = x := by simp

/-! ## General registers -/

@[simp] theorem State.reg_setReg_same (s : State) (x : Nibble) (b : Byte) : (s.setReg x b).reg x = b := by
  simp [State.reg, State.setReg]

@[simp] theorem State.reg_setReg_of_ne (s : State) {x y : Nibble} (b : Byte) (h : y ≠ x) :
    (s.setReg x b).reg y = s.reg y := by
  have hn : x.toNat ≠ y.toNat := fun e => h (BitVec.eq_of_toNat_eq e.symm)
  simp [State.reg, State.setReg, hn]

theorem State.reg_setReg (s : State) (x y : Nibble) (b : Byte) :
    (s.setReg x b).reg y = if y = x then b else s.reg y := by
  split
  · next h => rw [h, State.reg_setReg_same]
  · next h => exact State.reg_setReg_of_ne s b h

/-- Two states with the same register file read alike. -/
theorem State.reg_congr {s t : State} (h : t.v = s.v) (x : Nibble) : t.reg x = s.reg x := by
  simp [State.reg, h]

/-- R196: `setRegsFrom` writes nothing but the register file. -/
theorem State.setRegsFrom_eq (s : State) (k : Nat) (bs : List Byte) :
    s.setRegsFrom k bs = { s with v := (s.setRegsFrom k bs).v } := by
  induction bs generalizing s k with
  | nil => rfl
  | cons b bs ih => rw [State.setRegsFrom, ih]; rfl

/-- R196: registers k, k + 1, ... take the bytes in order, the others keep their values. -/
theorem State.reg_setRegsFrom (s : State) (k : Nat) (bs : List Byte) (h : k + bs.length ≤ 16) (r : Nibble) :
    (s.setRegsFrom k bs).reg r =
      if k ≤ r.toNat ∧ r.toNat < k + bs.length then bs.getD (r.toNat - k) 0 else s.reg r := by
  induction bs generalizing s k with
  | nil => rw [if_neg (by simp)]; rfl
  | cons b bs ih =>
    simp only [List.length_cons] at h
    have hr := r.isLt
    rw [State.setRegsFrom, ih _ _ (by omega), State.reg_setReg, List.length_cons]
    by_cases h1 : r.toNat = k
    · have h2 : r = BitVec.ofNat 4 k := by rw [← h1]; simp
      rw [if_neg (by omega), if_pos h2, if_pos (by omega), h1, Nat.sub_self]
      rfl
    · have h2 : r ≠ BitVec.ofNat 4 k := fun e => h1 (by rw [e]; exact Nibble.toNat_ofNat (by omega))
      rw [if_neg h2]
      by_cases h3 : k + 1 ≤ r.toNat ∧ r.toNat < k + 1 + bs.length
      · rw [if_pos h3, if_pos (by omega), show r.toNat - k = (r.toNat - (k + 1)) + 1 by omega,
          List.getD_cons_succ]
      · rw [if_neg h3, if_neg (by omega)]

@[simp] theorem State.firstRegs_length (s : State) (n : Nat) : (s.firstRegs n).length = n := by
  simp [State.firstRegs]

theorem State.firstRegs_getD (s : State) {n k : Nat} (h : k < n) :
    (s.firstRegs n).getD k 0 = s.reg (BitVec.ofNat 4 k) := by
  simp [State.firstRegs, List.getD, h]

/-! ## Key latches -/

@[simp] theorem State.key_setKey_same (s : State) (k : Nibble) (b : Bool) : (s.setKey k b).key k = b := by
  simp [State.key, State.setKey]

@[simp] theorem State.key_setKey_of_ne (s : State) {j k : Nibble} (b : Bool) (h : j ≠ k) :
    (s.setKey k b).key j = s.key j := by
  have hn : k.toNat ≠ j.toNat := fun e => h (BitVec.eq_of_toNat_eq e.symm)
  simp [State.key, State.setKey, hn]

/-- The scan of R233 lists exactly the pressed keys. -/
theorem State.mem_pressedKeys {s : State} {k : Nibble} : k ∈ s.pressedKeys ↔ s.key k = true := by
  have hk := k.isLt
  simp only [State.pressedKeys, List.mem_filter, List.mem_map, List.mem_range, and_iff_right_iff_imp]
  exact fun _ => ⟨k.toNat, by omega, by simp⟩

/-- The key `FX0A` reports is a pressed one. -/
theorem State.pickKey_pressed {s : State} {k : Nibble} (h : s.pickKey = some k) : s.key k = true := by
  rw [← State.mem_pressedKeys]
  unfold State.pickKey at h
  cases hk : s.cfg.keyPick with
  | lowest => simp only [hk] at h; exact List.mem_of_mem_head? h
  | anyPressed => simp only [hk] at h; exact List.mem_of_getElem? h

/-- `FX0A` reports none exactly when none is pressed. -/
theorem State.pickKey_eq_none {s : State} : s.pickKey = none ↔ s.pressedKeys = [] := by
  unfold State.pickKey
  cases s.cfg.keyPick with
  | lowest => simp
  | anyPressed =>
    simp only [List.getElem?_eq_none_iff]
    constructor
    · intro h
      by_contra hne
      have hpos : 0 < s.pressedKeys.length := List.length_pos_iff.2 hne
      have := Nat.mod_lt (Config.freeKeyChoice s.draws) hpos
      omega
    · intro h; simp [h]

/-! ## Return stack (R33, R34) -/

/-- Everything `Push` can do. -/
theorem State.push_cases (s : State) (w : Word) :
    (s.cfg.stackDepth ≤ s.sp ∧ s.push w = none) ∨
    (s.sp < s.cfg.stackDepth ∧ s.push w = some { s with stack := w :: s.stack }) := by
  unfold State.push
  split
  · next h => exact .inl ⟨h, rfl⟩
  · next h => exact .inr ⟨Nat.not_le.1 h, rfl⟩

/-- Everything `Pop` can do. -/
theorem State.pop_cases (s : State) :
    (s.stack = [] ∧ s.pop = none) ∨
    (∃ w rest, s.stack = w :: rest ∧ s.pop = some (w, { s with stack := rest })) := by
  unfold State.pop
  split
  · next h => exact .inl ⟨h, rfl⟩
  · next w rest h => exact .inr ⟨w, rest, h, rfl⟩

end Sys2Proof.Machine
end

