-- ==== Sys2Proof/Laws/Step.lean ====
section
/-! SUPPORT. Everything that a fetch, an instruction, a cycle and a step can do, said once. -/

namespace Sys2Proof.Machine

/-! ## Fetch and cycle -/

/-- Everything a fetch can give (R120). -/
theorem State.fetch_cases (s : State) :
    (s.cfg.memSize ≤ s.pc.toNat ∧ s.fetch = .outOfRange s.pc.toNat) ∨
    (s.pc.toNat + 1 = s.cfg.memSize ∧ s.fetch = .outOfRange (s.pc.toNat + 1)) ∨
    (s.pc.toNat + 1 < s.cfg.memSize ∧
      s.fetch = .bytes (Memory.read s.cfg s.mem s.pc.toNat) (Memory.read s.cfg s.mem (s.pc.toNat + 1))) := by
  by_cases h : s.cfg.memSize ≤ s.pc.toNat
  · exact .inl ⟨h, by simp [State.fetch, State.memRead_of_ge h]⟩
  · by_cases h1 : s.cfg.memSize ≤ s.pc.toNat + 1
    · exact .inr (.inl ⟨by omega, by
        simp [State.fetch, State.memRead_of_lt (Nat.not_le.1 h), State.memRead_of_ge h1]⟩)
    · exact .inr (.inr ⟨by omega, by
        simp [State.fetch, State.memRead_of_lt (Nat.not_le.1 h), State.memRead_of_lt (Nat.not_le.1 h1)]⟩)

/-- A fetch from the two bytes that are there. -/
theorem State.fetch_of_memRead {s : State} {hi lo : Byte} (h0 : s.memRead s.pc.toNat = some hi)
    (h1 : s.memRead (s.pc.toNat + 1) = some lo) : s.fetch = .bytes hi lo := by
  simp [State.fetch, h0, h1]

/-- Every instruction answers a next state, whatever the state. -/
theorem exec_next (i : Instr) (s : State) : ∃ t, exec i s = .next t := by
  cases i <;>
    simp only [exec, execCls, execRet, execJp, execCall, execSeImm, execSneImm, execSeReg, execSneReg, execJpV0,
      execLdImm, execAddImm, execLdReg, execOrReg, execAndReg, execXorReg, execAddReg, execSubReg, execShr,
      execSubnReg, execShl, execRnd, execLdI, execAddI, execLdF, execLdB, execStRegs, execLdRegs, execDrw,
      execSkp, execSknp, skipOnKey, execLdVxK, execLdVxDt, execLdDtVx, execLdStVx] <;>
    (try split) <;> exact ⟨_, rfl⟩

/-- Running an instruction is `exec`, then the rule of the repaint flag. -/
theorem runInstr_of_exec {i : Instr} {s t : State} (h : exec i s = .next t) :
    runInstr i s = .next (afterExecute i t) := by
  simp [runInstr, h]

/-- Everything the repaint rule can do (R124). -/
theorem afterExecute_cases (i : Instr) (s : State) :
    ((setsRepaint i = true ∧ s.halted = false) ∧ afterExecute i s = { s with requiresRepaint := true }) ∨
    (¬ (setsRepaint i = true ∧ s.halted = false) ∧ afterExecute i s = s) := by
  unfold afterExecute
  split
  · next h => exact .inl ⟨h, rfl⟩
  · next h => exact .inr ⟨h, rfl⟩

/-- R124: the instructions that set the flag. -/
theorem setsRepaint_iff (i : Instr) : setsRepaint i = true ↔ i = .cls ∨ ∃ x y n, i = .drw x y n := by
  cases i <;> simp [setsRepaint]

/-- Everything a cycle can do (R126): nothing when halted; a fetch that fails; a word that is no instruction; an
instruction run from the post-advance state. -/
theorem cycle_cases (rand : Byte) (s : State) :
    (s.halted = true ∧ cycle rand s = .next s) ∨
    (s.halted = false ∧
      ((∃ a, s.fetch = .outOfRange a ∧ cycle rand s = .next ((s.beginCycle rand).raiseAddress a)) ∨
      (∃ hi lo, s.fetch = .bytes hi lo ∧
        ((decodeWord (Opcode.ofBytes hi lo) = .error (.unrecognizedSuffix (Opcode.ofBytes hi lo)) ∧
          cycle rand s = .next (((s.beginCycle rand).advance).raise .unrecognizedSuffix (Opcode.ofBytes hi lo))) ∨
        (∃ i t, decodeWord (Opcode.ofBytes hi lo) = .ok i ∧ exec i (s.beginCycle rand).advance = .next t ∧
          cycle rand s = .next (afterExecute i t)))))) := by
  cases hh : s.halted with
  | true => exact .inl ⟨rfl, by simp [cycle, hh]⟩
  | false =>
    refine .inr ⟨rfl, ?_⟩
    cases hf : s.fetch with
    | outOfRange a => exact .inl ⟨a, rfl, by simp [cycle, hh, hf]⟩
    | bytes hi lo =>
      refine .inr ⟨hi, lo, rfl, ?_⟩
      cases hd : decodeWord (Opcode.ofBytes hi lo) with
      | error e =>
        have he := decodeWord_error hd
        subst he
        exact .inl ⟨rfl, by simp [cycle, hh, hf, runWord, hd, causeOf]⟩
      | ok i =>
        obtain ⟨t, ht⟩ := exec_next i (s.beginCycle rand).advance
        exact .inr ⟨i, t, rfl, ht, by simp [cycle, hh, hf, runWord, hd, runInstr_of_exec ht]⟩

/-- A cycle always answers a next state (U18). -/
theorem cycle_next (rand : Byte) (s : State) : ∃ t, cycle rand s = .next t := by
  obtain ⟨-, h⟩ | ⟨-, ⟨a, -, h⟩ | ⟨hi, lo, -, ⟨-, h⟩ | ⟨i, t, -, -, h⟩⟩⟩ := cycle_cases rand s <;> exact ⟨_, h⟩

/-! ## Events and steps -/

/-- Everything a load can do (R76, R294). -/
theorem loadByte_cases (k : Nat) (b : Byte) (s : State) :
    ((s.started = true ∨ s.cfg.memSize ≤ 0x200 + k) ∧ loadByte k b s = .refused (.loadOutsideWindow (0x200 + k))) ∨
    ((s.started = false ∧ 0x200 + k < s.cfg.memSize) ∧
      loadByte k b s = .next { s with mem := Memory.write s.cfg s.mem (0x200 + k) b }) := by
  unfold loadByte
  cases hs : s.started with
  | true => exact .inl ⟨.inl rfl, by simp⟩
  | false =>
    by_cases h : 0x200 + k < s.cfg.memSize
    · exact .inr ⟨⟨rfl, h⟩, by simp [hs, State.memWrite_of_lt h]⟩
    · exact .inl ⟨.inr (Nat.not_lt.1 h), by simp [State.memWrite_of_ge (Nat.not_lt.1 h)]⟩

/-- With nothing in the host's script a step is a cycle with a free draw. -/
theorem step_of_no_events {s : State} (h : s.pending = []) : step s = cycle (Config.freeRand s.draws) s := by
  simp [step, nextEvent, h]

/-- With an event in the host's script a step delivers it. -/
theorem step_of_event {s : State} {e : Event} {rest : List Event} (h : s.pending = e :: rest) :
    step s = deliver e { s with pending := rest } := by
  simp [step, nextEvent, h]

/-- One step of a run of any machine. -/
theorem run_eq (M : Host.Core) (k : Nat) (s : M.State) :
    M.run (k + 1) s =
      match M.step s with
      | .next u => M.run k u
      | .fault r => .fault r
      | .refused r => .refused r := by
  cases h : M.step s <;> simp [Host.Core.run, h]

/-- A run of `k + 1` steps that answers is a step that answers and a run of `k` steps from there. -/
theorem run_succ {k : Nat} {s t : State} (h : Host.Core.run Sys2Proof.core (k + 1) s = .next t) :
    ∃ u : State, step s = .next u ∧ Host.Core.run Sys2Proof.core k u = .next t := by
  have h' := (run_eq Sys2Proof.core k s).symm.trans h
  have hc : Sys2Proof.core.step s = step s := rfl
  rw [hc] at h'
  cases hs : step s with
  | next u => rw [hs] at h'; exact ⟨u, rfl, h'⟩
  | fault r => cases r
  | refused r => rw [hs] at h'; cases h'

/-! ## The pieces of a step, by field -/

theorem wrap12_toNat (n : Nat) : (wrap12 n).toNat = n % 0x1000 := by
  simp only [wrap12, BitVec.toNat_ofNat]; omega

theorem wrap12_le (n : Nat) : (wrap12 n).toNat ≤ 0xFFF := by rw [wrap12_toNat]; omega

theorem addrOperand_toNat (nnn : Addr) : (addrOperand nnn).toNat = nnn.toNat := by
  have := nnn.isLt
  simp only [addrOperand, BitVec.toNat_setWidth]; omega

theorem glyphAddress_toNat (b : Byte) : (glyphAddress b).toNat = 0x50 + 5 * b.toNat := by
  have := b.isLt
  simp only [glyphAddress, BitVec.toNat_ofNat]; omega

theorem flagByte_toNat (b : Bool) : (flagByte b).toNat = b.toNat := by cases b <;> rfl

theorem sum8_toNat (a b : Byte) : (sum8 a b).toNat = (a.toNat + b.toNat) % 256 := by
  simp only [sum8, BitVec.toNat_ofNat]; omega

/-- The key index is the register's value, when that is at most 0xF (R232). -/
theorem keyIndex_cases (b : Byte) :
    (0xF < b.toNat ∧ keyIndex b = none) ∨ (b.toNat ≤ 0xF ∧ ∃ k : Nibble, keyIndex b = some k ∧ k.toNat = b.toNat) := by
  unfold keyIndex
  split
  · next h => exact .inr ⟨h, _, rfl, Nibble.toNat_ofNat (by omega)⟩
  · next h => exact .inl ⟨by omega, rfl⟩

/-- Everything a conditional skip can do (R140). -/
theorem State.skipIf_eq (s : State) (c : Bool) :
    s.skipIf c = { s with pc := if c then wrap12 (s.pc.toNat + 2) else s.pc } := by
  cases c <;> rfl

end Sys2Proof.Machine
end

