-- ==== Sys2Proof/Laws/Frames.lean ====
section
/-! SUPPORT. Frames: what the updates of the machine leave unchanged, in the terms of Safety.lean. -/

namespace Sys2Proof.Machine

theorem UnchangedBut.refl (ps : List Part) (s : State) : UnchangedBut ps s s := by
  constructor <;> intros <;> simp

/-- A frame that allows more. -/
theorem UnchangedBut.mono {ps qs : List Part} {s t : State} (h : UnchangedBut ps s t) (hs : ∀ p ∈ ps, p ∈ qs) :
    UnchangedBut qs s t where
  cfg := h.cfg
  reg r hr := h.reg r fun x => hr (hs _ x)
  index hr := h.index fun x => hr (hs _ x)
  pc hr := h.pc fun x => hr (hs _ x)
  stack hr := h.stack fun x => hr (hs _ x)
  dt hr := h.dt fun x => hr (hs _ x)
  st hr := h.st fun x => hr (hs _ x)
  mem hr := h.mem fun x => hr (hs _ x)
  keys hr := h.keys fun x => hr (hs _ x)
  fb hr := h.fb fun x => hr (hs _ x)
  repaint hr := h.repaint fun x => hr (hs _ x)
  running hr := h.running fun x => hr (hs _ x)
  latch hr := h.latch fun x => hr (hs _ x)
  bookkeeping hr := h.bookkeeping fun x => hr (hs _ x)

/-- Frames compose. -/
theorem UnchangedBut.trans {ps : List Part} {s t u : State} (h : UnchangedBut ps s t) (g : UnchangedBut ps t u) :
    UnchangedBut ps s u where
  cfg := g.cfg.trans h.cfg
  reg r hr := (g.reg r hr).trans (h.reg r hr)
  index hr := (g.index hr).trans (h.index hr)
  pc hr := (g.pc hr).trans (h.pc hr)
  stack hr := (g.stack hr).trans (h.stack hr)
  dt hr := (g.dt hr).trans (h.dt hr)
  st hr := (g.st hr).trans (h.st hr)
  mem hr a := (g.mem hr a).trans (h.mem hr a)
  keys hr k := (g.keys hr k).trans (h.keys hr k)
  fb hr x y := (g.fb hr x y).trans (h.fb hr x y)
  repaint hr := (g.repaint hr).trans (h.repaint hr)
  running hr := (g.running hr).trans (h.running hr)
  latch hr := ⟨(g.latch hr).1.trans (h.latch hr).1, (g.latch hr).2.1.trans (h.latch hr).2.1,
    (g.latch hr).2.2.trans (h.latch hr).2.2⟩
  bookkeeping hr := ⟨(g.bookkeeping hr).1.trans (h.bookkeeping hr).1,
    (g.bookkeeping hr).2.1.trans (h.bookkeeping hr).2.1, (g.bookkeeping hr).2.2.1.trans (h.bookkeeping hr).2.2.1,
    (g.bookkeeping hr).2.2.2.trans (h.bookkeeping hr).2.2.2⟩

/-- One register written. -/
theorem UnchangedBut.setReg (s : State) (x : Nibble) (b : Byte) : UnchangedBut [.reg x] s (s.setReg x b) := by
  constructor <;> intros <;>
    first
      | rfl
      | exact State.reg_setReg_of_ne s b (by rintro rfl; simp_all)
      | exact ⟨rfl, rfl, rfl⟩
      | exact ⟨rfl, rfl, rfl, rfl⟩

/-- A flag-writing instruction's two registers, in either order. -/
theorem UnchangedBut.setReg_setReg (s : State) (x y : Nibble) (a b : Byte) :
    UnchangedBut [.reg x, .reg y] s ((s.setReg x a).setReg y b) :=
  ((UnchangedBut.setReg s x a).mono (by simp)).trans ((UnchangedBut.setReg _ y b).mono (by simp))

/-- The fault latch written. -/
theorem UnchangedBut.raise (s : State) (c : FaultCause) (w : Word) : UnchangedBut [.latch] s (s.raise c w) := by
  constructor <;> intros <;> first | rfl | simp_all

/-- PC written. -/
theorem UnchangedBut.withPc (s : State) (w : Word) : UnchangedBut [.pc] s { s with pc := w } := by
  constructor <;> intros <;> first | rfl | simp_all

/-- PC and the stack written. -/
theorem UnchangedBut.withPcStack (s : State) (w : Word) (st : List Word) :
    UnchangedBut [.pc, .stack] s { s with pc := w, stack := st } := by
  constructor <;> intros <;> first | rfl | simp_all

/-- I written. -/
theorem UnchangedBut.withIndex (s : State) (w : Word) : UnchangedBut [.index] s { s with i := w } := by
  constructor <;> intros <;> first | rfl | simp_all

/-- DT written. -/
theorem UnchangedBut.withDt (s : State) (b : Byte) : UnchangedBut [.dt] s { s with dt := b } := by
  constructor <;> intros <;> first | rfl | simp_all

/-- ST written. -/
theorem UnchangedBut.withSt (s : State) (b : Byte) : UnchangedBut [.st] s { s with st := b } := by
  constructor <;> intros <;> first | rfl | simp_all

/-- The framebuffer written. -/
theorem UnchangedBut.withFb (s : State) (f : Frame) : UnchangedBut [.fb] s { s with fb := f } := by
  constructor <;> intros <;> first | rfl | simp_all

/-- Memory written. -/
theorem UnchangedBut.withMem (s : State) (m : Memory) : UnchangedBut [.mem] s { s with mem := m } := by
  constructor <;> intros <;> first | rfl | simp_all

/-- `requires_repaint` written. -/
theorem UnchangedBut.withRepaint (s : State) (b : Bool) : UnchangedBut [.repaint] s { s with requiresRepaint := b } := by
  constructor <;> intros <;> first | rfl | simp_all

/-- The model's own bookkeeping written. -/
theorem UnchangedBut.withBookkeeping (s : State) (a : Bool) (r : Byte) (d : Nat) (p : List Event) :
    UnchangedBut [.bookkeeping] s { s with started := a, rand := r, draws := d, pending := p } := by
  constructor <;> intros <;> first | rfl | simp_all

/-- A timer tick writes the two timers. -/
theorem UnchangedBut.tick (s : State) : UnchangedBut [.dt, .st] s s.tick := by
  unfold State.tick
  split
  · exact .refl _ _
  · constructor <;> intros <;> first | rfl | simp_all

end Sys2Proof.Machine
end

