-- ==== Sys2Proof/Laws/PerInstr.lean ====
section
/-! SUPPORT. Statements per instruction. Family InItsRow: the word an instruction is encoded to belongs to the
instruction's row of the opcode map (spec/30_encoding.md R94), and the row is one of the 34. -/

namespace Sys2Proof.Laws.InItsRow

/-- `op & mask = match` for the word of `i` and its row, which the map lists. -/
def Statement (i : Instr) : Prop := i.row.selects (encode i) = true ∧ i.row ∈ opcodeMap

theorem and_F (f : Nibble) : f &&& 15#4 = f := BitVec.and_allOnes

theorem and_FF (b : Byte) : b &&& 255#8 = b := BitVec.and_allOnes

theorem and_F000 (f : Nibble) (nnn : Addr) : wordNNN f nnn &&& 0xF000 = wordNNN f 0 := by
  show (f ++ nnn) &&& (0xF#4 ++ 0x000#12) = f ++ 0x000#12
  rw [BitVec.and_append]; simp [and_F]

theorem xnn_and_F000 (f x : Nibble) (nn : Byte) : wordXNN f x nn &&& 0xF000 = wordXNN f 0 0 := by
  show ((f ++ x) ++ nn) &&& ((0xF#4 ++ 0x0#4) ++ 0x00#8) = (f ++ 0x0#4) ++ 0x00#8
  rw [BitVec.and_append, BitVec.and_append]; simp [and_F]

theorem xnn_and_F0FF (f x : Nibble) (nn : Byte) : wordXNN f x nn &&& 0xF0FF = wordXNN f 0 nn := by
  show ((f ++ x) ++ nn) &&& ((0xF#4 ++ 0x0#4) ++ 0xFF#8) = (f ++ 0x0#4) ++ nn
  rw [BitVec.and_append, BitVec.and_append]; simp [and_F, and_FF]

theorem xyn_and_F00F (f x y n : Nibble) : wordXYN f x y n &&& 0xF00F = wordXYN f 0 0 n := by
  show (((f ++ x) ++ y) ++ n) &&& (((0xF#4 ++ 0x0#4) ++ 0x0#4) ++ 0xF#4) = ((f ++ 0x0#4) ++ 0x0#4) ++ n
  rw [BitVec.and_append, BitVec.and_append, BitVec.and_append]; simp [and_F]

theorem xyn_and_F000 (f x y n : Nibble) : wordXYN f x y n &&& 0xF000 = wordXYN f 0 0 0 := by
  show (((f ++ x) ++ y) ++ n) &&& (((0xF#4 ++ 0x0#4) ++ 0x0#4) ++ 0x0#4) = ((f ++ 0x0#4) ++ 0x0#4) ++ 0x0#4
  rw [BitVec.and_append, BitVec.and_append, BitVec.and_append]; simp [and_F]

/-- The row condition from the word masked by the row's mask. -/
theorem of_mask {i : Instr} {w : Word} (h : encode i &&& i.row.mask = w) (hw : w = i.row.pattern)
    (hr : i.row ∈ opcodeMap) : Statement i := by
  refine ⟨?_, hr⟩
  unfold OpcodeRow.selects
  rw [h, hw]
  exact beq_self_eq_true _

theorem cls : Statement .cls := ⟨by decide, by decide⟩
theorem ret : Statement .ret := ⟨by decide, by decide⟩
theorem jp (nnn : Addr) : Statement (.jp nnn) := of_mask (and_F000 _ _) rfl (by simp only [Instr.row]; decide)
theorem call (nnn : Addr) : Statement (.call nnn) := of_mask (and_F000 _ _) rfl (by simp only [Instr.row]; decide)
theorem seImm (x : Nibble) (nn : Byte) : Statement (.seImm x nn) := of_mask (xnn_and_F000 _ _ _) rfl (by simp only [Instr.row]; decide)
theorem sneImm (x : Nibble) (nn : Byte) : Statement (.sneImm x nn) := of_mask (xnn_and_F000 _ _ _) rfl (by simp only [Instr.row]; decide)
theorem seReg (x y : Nibble) : Statement (.seReg x y) := of_mask (xyn_and_F00F _ _ _ _) rfl (by simp only [Instr.row]; decide)
theorem ldImm (x : Nibble) (nn : Byte) : Statement (.ldImm x nn) := of_mask (xnn_and_F000 _ _ _) rfl (by simp only [Instr.row]; decide)
theorem addImm (x : Nibble) (nn : Byte) : Statement (.addImm x nn) := of_mask (xnn_and_F000 _ _ _) rfl (by simp only [Instr.row]; decide)
theorem ldReg (x y : Nibble) : Statement (.ldReg x y) := of_mask (xyn_and_F00F _ _ _ _) rfl (by simp only [Instr.row]; decide)
theorem orReg (x y : Nibble) : Statement (.orReg x y) := of_mask (xyn_and_F00F _ _ _ _) rfl (by simp only [Instr.row]; decide)
theorem andReg (x y : Nibble) : Statement (.andReg x y) := of_mask (xyn_and_F00F _ _ _ _) rfl (by simp only [Instr.row]; decide)
theorem xorReg (x y : Nibble) : Statement (.xorReg x y) := of_mask (xyn_and_F00F _ _ _ _) rfl (by simp only [Instr.row]; decide)
theorem addReg (x y : Nibble) : Statement (.addReg x y) := of_mask (xyn_and_F00F _ _ _ _) rfl (by simp only [Instr.row]; decide)
theorem subReg (x y : Nibble) : Statement (.subReg x y) := of_mask (xyn_and_F00F _ _ _ _) rfl (by simp only [Instr.row]; decide)
theorem shr (x y : Nibble) : Statement (.shr x y) := of_mask (xyn_and_F00F _ _ _ _) rfl (by simp only [Instr.row]; decide)
theorem subnReg (x y : Nibble) : Statement (.subnReg x y) := of_mask (xyn_and_F00F _ _ _ _) rfl (by simp only [Instr.row]; decide)
theorem shl (x y : Nibble) : Statement (.shl x y) := of_mask (xyn_and_F00F _ _ _ _) rfl (by simp only [Instr.row]; decide)
theorem sneReg (x y : Nibble) : Statement (.sneReg x y) := of_mask (xyn_and_F00F _ _ _ _) rfl (by simp only [Instr.row]; decide)
theorem ldI (nnn : Addr) : Statement (.ldI nnn) := of_mask (and_F000 _ _) rfl (by simp only [Instr.row]; decide)
theorem jpV0 (nnn : Addr) : Statement (.jpV0 nnn) := of_mask (and_F000 _ _) rfl (by simp only [Instr.row]; decide)
theorem rnd (x : Nibble) (nn : Byte) : Statement (.rnd x nn) := of_mask (xnn_and_F000 _ _ _) rfl (by simp only [Instr.row]; decide)
theorem drw (x y n : Nibble) : Statement (.drw x y n) := of_mask (xyn_and_F000 _ _ _ _) rfl (by simp only [Instr.row]; decide)
theorem skp (x : Nibble) : Statement (.skp x) := of_mask (xnn_and_F0FF _ _ _) rfl (by simp only [Instr.row]; decide)
theorem sknp (x : Nibble) : Statement (.sknp x) := of_mask (xnn_and_F0FF _ _ _) rfl (by simp only [Instr.row]; decide)
theorem ldVxDt (x : Nibble) : Statement (.ldVxDt x) := of_mask (xnn_and_F0FF _ _ _) rfl (by simp only [Instr.row]; decide)
theorem ldVxK (x : Nibble) : Statement (.ldVxK x) := of_mask (xnn_and_F0FF _ _ _) rfl (by simp only [Instr.row]; decide)
theorem ldDtVx (x : Nibble) : Statement (.ldDtVx x) := of_mask (xnn_and_F0FF _ _ _) rfl (by simp only [Instr.row]; decide)
theorem ldStVx (x : Nibble) : Statement (.ldStVx x) := of_mask (xnn_and_F0FF _ _ _) rfl (by simp only [Instr.row]; decide)
theorem addI (x : Nibble) : Statement (.addI x) := of_mask (xnn_and_F0FF _ _ _) rfl (by simp only [Instr.row]; decide)
theorem ldF (x : Nibble) : Statement (.ldF x) := of_mask (xnn_and_F0FF _ _ _) rfl (by simp only [Instr.row]; decide)
theorem ldB (x : Nibble) : Statement (.ldB x) := of_mask (xnn_and_F0FF _ _ _) rfl (by simp only [Instr.row]; decide)
theorem stRegs (x : Nibble) : Statement (.stRegs x) := of_mask (xnn_and_F0FF _ _ _) rfl (by simp only [Instr.row]; decide)
theorem ldRegs (x : Nibble) : Statement (.ldRegs x) := of_mask (xnn_and_F0FF _ _ _) rfl (by simp only [Instr.row]; decide)

end Sys2Proof.Laws.InItsRow
end

