-- ==== Sys2Proof/Tests/Slice0.lean ====
section
/-! SUPPORT. Tests. The expected results are those of spec/95_test_vectors.md (an identifier such as AR14 names the
row; E1 to E13 the source's own examples) and the words are written out from spec/30_encoding.md R91, R94. Then, for
every statement that has hypotheses, witnesses that meet them, at the boundary of each clause. -/

namespace Sys2Proof.Tests

open Sys2Proof.Machine

/-! ## Helpers -/

/-- The reset state with these registers. -/
def regs (l : List (Nibble × Byte)) (s : State) : State := l.foldl (fun s p => s.setReg p.1 p.2) s
/-- `s` with these bytes in memory. -/
def bytes (a : Nat) (bs : List Byte) (s : State) : State := s.storeBlock a bs
/-- `s` with I, PC, the stack, the latches, the pixels given. -/
def atI (i : Word) (s : State) : State := { s with i := i }
def atPc (pc : Word) (s : State) : State := { s with pc := pc }
def withStack (st : List Word) (s : State) : State := { s with stack := st }
def pressed (k : List Nibble) (s : State) : State := k.foldl (fun s k => s.setKey k true) s
def lit (l : List (Nat × Nat)) (s : State) : State := l.foldl (fun s p => { s with fb := s.fb.put p.1 p.2 true }) s
def script (es : List Event) (s : State) : State := { s with pending := es }
/-- Reset with MEM_SIZE 4096, with LEGACY_SHIFT, with KEY_PICK any-pressed. -/
def reset4096 : State := State.resetWith { Config.default with memSize := 4096 }
def resetLegacy : State := State.resetWith { Config.default with legacyShift := true }
def resetAnyKey : State := State.resetWith { Config.default with keyPick := .anyPressed }
/-- A result is a next state with this property. -/
def holds (r : Result) (p : State → Bool) : Bool := match r with | .next t => p t | .fault _ => false | .refused _ => false
/-- One step that runs the word `w`. -/
def run1 (w : Nat) (s : State) (p : State → Bool) : Bool := holds (step (s.withFetchWord 16 w)) p
/-- One step that runs the word `w` with this random draw. -/
def runRand (w : Nat) (r : Byte) (s : State) (p : State → Bool) : Bool :=
  holds (step (script [.cycle r] (s.withFetchWord 16 w))) p
/-- The state in which a machine has halted with this latch. -/
def latch (c : FaultCause) (info : Word) (t : State) : Bool := t.halted && t.faultCause == c && t.faultInfo == info

/-! ## Well-formedness: one ill-formed term for each check (R3, R4, R6) -/

theorem test_wellFormed_default : Config.default.wellFormed = true := by decide
theorem test_wellFormed_4096 : reset4096.cfg.wellFormed = true := by decide
theorem test_refused_memSize : Config.wellFormed { Config.default with memSize := 4097 } = false := by decide
theorem test_refused_stackDepth : Config.wellFormed { Config.default with stackDepth := 0 } = false := by decide
theorem test_refused_font : Config.wellFormed { Config.default with font := Config.default.font.drop 1 } = false := by
  decide

/-! ## Decoding, a word for every constructor, written out field by field -/

theorem test_decode_cls : decode [0x00, 0xE0] = .ok (.cls, []) := by decide
theorem test_decode_ret : decode [0x00, 0xEE] = .ok (.ret, []) := by decide
theorem test_decode_jp : decode [0x1A, 0xBC] = .ok (.jp 0xABC, []) := by decide
theorem test_decode_call : decode [0x22, 0x08] = .ok (.call 0x208, []) := by decide
theorem test_decode_seImm : decode [0x33, 0x2A] = .ok (.seImm 3 0x2A, []) := by decide
theorem test_decode_sneImm : decode [0x43, 0x2B] = .ok (.sneImm 3 0x2B, []) := by decide
theorem test_decode_seReg : decode [0x51, 0x20] = .ok (.seReg 1 2, []) := by decide
theorem test_decode_ldImm : decode [0x6A, 0x2B] = .ok (.ldImm 0xA 0x2B, []) := by decide
theorem test_decode_addImm : decode [0x70, 0x05] = .ok (.addImm 0 0x05, []) := by decide
theorem test_decode_ldReg : decode [0x81, 0x20] = .ok (.ldReg 1 2, []) := by decide
theorem test_decode_orReg : decode [0x81, 0x21] = .ok (.orReg 1 2, []) := by decide
theorem test_decode_andReg : decode [0x81, 0x22] = .ok (.andReg 1 2, []) := by decide
theorem test_decode_xorReg : decode [0x81, 0x23] = .ok (.xorReg 1 2, []) := by decide
theorem test_decode_addReg : decode [0x81, 0x24] = .ok (.addReg 1 2, []) := by decide
theorem test_decode_subReg : decode [0x81, 0x25] = .ok (.subReg 1 2, []) := by decide
theorem test_decode_shr : decode [0x81, 0x26] = .ok (.shr 1 2, []) := by decide
theorem test_decode_subnReg : decode [0x8A, 0xB7] = .ok (.subnReg 0xA 0xB, []) := by decide
theorem test_decode_shl : decode [0x81, 0x2E] = .ok (.shl 1 2, []) := by decide
theorem test_decode_sneReg : decode [0x91, 0x20] = .ok (.sneReg 1 2, []) := by decide
theorem test_decode_ldI : decode [0xA2, 0x2A] = .ok (.ldI 0x22A, []) := by decide
theorem test_decode_jpV0 : decode [0xB3, 0x00] = .ok (.jpV0 0x300, []) := by decide
theorem test_decode_rnd : decode [0xC3, 0x0F] = .ok (.rnd 3 0x0F, []) := by decide
theorem test_decode_drw : decode [0xD0, 0x1F] = .ok (.drw 0 1 15, []) := by decide
theorem test_decode_skp : decode [0xE4, 0x9E] = .ok (.skp 4, []) := by decide
theorem test_decode_sknp : decode [0xE4, 0xA1] = .ok (.sknp 4, []) := by decide
theorem test_decode_ldVxDt : decode [0xF3, 0x07] = .ok (.ldVxDt 3, []) := by decide
theorem test_decode_ldVxK : decode [0xF5, 0x0A] = .ok (.ldVxK 5, []) := by decide
theorem test_decode_ldDtVx : decode [0xF3, 0x15] = .ok (.ldDtVx 3, []) := by decide
theorem test_decode_ldStVx : decode [0xF3, 0x18] = .ok (.ldStVx 3, []) := by decide
theorem test_decode_addI : decode [0xF2, 0x1E] = .ok (.addI 2, []) := by decide
theorem test_decode_ldF : decode [0xFA, 0x29] = .ok (.ldF 0xA, []) := by decide
theorem test_decode_ldB : decode [0xF0, 0x33] = .ok (.ldB 0, []) := by decide
theorem test_decode_stRegs : decode [0xF2, 0x55] = .ok (.stRegs 2, []) := by decide
theorem test_decode_ldRegs : decode [0xF3, 0x65] = .ok (.ldRegs 3, []) := by decide

/-- Words that are no instruction: CY3 to CY6 (R95, R99). -/
theorem test_illegal_family_0 : decodeWord 0x0000 = .error (.unrecognizedSuffix 0x0000) ∧
    decodeWord 0x00E1 = .error (.unrecognizedSuffix 0x00E1) ∧
    decodeWord 0x01E0 = .error (.unrecognizedSuffix 0x01E0) ∧
    decodeWord 0x0FEE = .error (.unrecognizedSuffix 0x0FEE) := ⟨rfl, rfl, rfl, rfl⟩
/-- CF22, CF26, AR48, AR49 (R96, R97, R99). -/
theorem test_illegal_families_5_8_9 : decodeWord 0x5121 = .error (.unrecognizedSuffix 0x5121) ∧
    decodeWord 0x912F = .error (.unrecognizedSuffix 0x912F) ∧
    decodeWord 0x8128 = .error (.unrecognizedSuffix 0x8128) ∧
    decodeWord 0x812F = .error (.unrecognizedSuffix 0x812F) := ⟨rfl, rfl, rfl, rfl⟩
/-- KT9, KT10, KT23, KT24 (R98, R99). -/
theorem test_illegal_families_E_F : decodeWord 0xE49F = .error (.unrecognizedSuffix 0xE49F) ∧
    decodeWord 0xE000 = .error (.unrecognizedSuffix 0xE000) ∧
    decodeWord 0xF300 = .error (.unrecognizedSuffix 0xF300) ∧
    decodeWord 0xF375 = .error (.unrecognizedSuffix 0xF375) := ⟨rfl, rfl, rfl, rfl⟩

theorem test_decode_truncated : decode [0x60] = .error .truncated := by decide

/-- The host's numbering: bit 0 is the least significant bit of the word. -/
theorem test_decodeTableWord : decodeTableWord 16 0xA22A = some (.ldI 0x22A) ∧ decodeTableWord 16 0x5121 = none := by
  decide

/-! ## Control flow -/

/-- CF2: the newer of two entries. -/
theorem test_ret : run1 0x00EE (withStack [0x30A, 0x204] State.reset)
    (fun t => t.pc == 0x30A && t.stack == [0x204]) = true := by decide
/-- CF3. -/
theorem test_ret_underflow : run1 0x00EE State.reset (fun t => latch .stackUnderflow 0 t && t.pc == 0x202) = true := by
  decide
/-- CF4, E11: not 0xABE. -/
theorem test_jp : run1 0x1ABC State.reset (fun t => t.pc == 0xABC) = true := by decide
/-- CF10: the pushed address is the advanced PC, 0xFFF. -/
theorem test_call : run1 0x2300 (withStack [0x204] (atPc 0xFFD State.reset))
    (fun t => t.pc == 0x300 && t.sp == 2 && t.stackEntry 1 == some 0xFFF) = true := by decide
/-- CF11. -/
theorem test_call_overflow : run1 0x2300 (withStack (List.replicate 16 0x202) State.reset)
    (fun t => latch .stackOverflow 0x202 t && t.pc == 0x202 && t.sp == 16) = true := by decide
/-- CF13, CF14. -/
theorem test_seImm : run1 0x332A (regs [(3, 0x2A)] State.reset) (fun t => t.pc == 0x204) = true := by decide
theorem test_seImm_no_skip : run1 0x332B (regs [(3, 0x2A)] State.reset) (fun t => t.pc == 0x202) = true := by decide
/-- CF18. -/
theorem test_sneImm : run1 0x432B (regs [(3, 0x2A)] State.reset) (fun t => t.pc == 0x204) = true := by decide
/-- CF19, CF20. -/
theorem test_seReg : run1 0x5120 (regs [(1, 7), (2, 7)] State.reset) (fun t => t.pc == 0x204) = true := by decide
theorem test_seReg_no_skip : run1 0x5120 (regs [(1, 7), (2, 8)] State.reset) (fun t => t.pc == 0x202) = true := by
  decide
/-- CF23, CF25. -/
theorem test_sneReg : run1 0x9120 (regs [(1, 7), (2, 8)] State.reset) (fun t => t.pc == 0x204) = true := by decide
theorem test_sneReg_same : run1 0x9330 (regs [(3, 0x99)] State.reset) (fun t => t.pc == 0x202) = true := by decide
/-- CF32, CF31. -/
theorem test_jpV0 : run1 0xBF00 (regs [(0, 0xFF)] State.reset) (fun t => t.pc == 0xFFF) = true := by decide
theorem test_jpV0_fatal : run1 0xBF01 (regs [(0, 0xFF)] State.reset)
    (fun t => latch .addressOutOfRange 0x1000 t && t.pc == 0x202) = true := by decide

/-! ## Load, arithmetic, logic, shift, random -/

/-- AR1. -/
theorem test_ldImm : run1 0x6A2B State.reset (fun t => t.reg 0xA == 0x2B && t.pc == 0x202) = true := by decide
/-- AR3, AR7. -/
theorem test_addImm : run1 0x7005 (regs [(0, 0xFE)] State.reset) (fun t => t.reg 0 == 3 && t.reg 0xF == 0) = true := by
  decide
theorem test_addImm_vf : run1 0x7F02 (regs [(0xF, 0xFF)] State.reset) (fun t => t.reg 0xF == 1) = true := by decide
/-- AR8. -/
theorem test_ldReg : run1 0x8120 (regs [(1, 0x11), (2, 0x99)] State.reset)
    (fun t => t.reg 1 == 0x99 && t.reg 2 == 0x99) = true := by decide
/-- AR10: VF stays 1. -/
theorem test_orReg : run1 0x8121 (regs [(1, 0xF0), (2, 0x0F), (0xF, 1)] State.reset)
    (fun t => t.reg 1 == 0xFF && t.reg 0xF == 1) = true := by decide
/-- AR11. -/
theorem test_andReg : run1 0x8122 (regs [(1, 0xF3), (2, 0x3F)] State.reset) (fun t => t.reg 1 == 0x33) = true := by
  decide
/-- AR12. -/
theorem test_xorReg : run1 0x8123 (regs [(1, 0xFF), (2, 0x0F)] State.reset) (fun t => t.reg 1 == 0xF0) = true := by
  decide
/-- AR14, AR19. -/
theorem test_addReg : run1 0x8124 (regs [(1, 0xC8), (2, 0x64)] State.reset)
    (fun t => t.reg 1 == 0x2C && t.reg 0xF == 1) = true := by decide
theorem test_addReg_into_vf : run1 0x8F24 (regs [(0xF, 0xF0), (2, 0x20)] State.reset) (fun t => t.reg 0xF == 1) = true := by
  decide
/-- AR24, AR30. -/
theorem test_subReg : run1 0x8125 (regs [(1, 3), (2, 5), (0xF, 1)] State.reset)
    (fun t => t.reg 1 == 0xFE && t.reg 0xF == 0) = true := by decide
theorem test_subReg_from_vf : run1 0x81F5 (regs [(1, 5), (0xF, 9)] State.reset)
    (fun t => t.reg 1 == 0xFC && t.reg 0xF == 0) = true := by decide
/-- AR31, AR36. -/
theorem test_shr : run1 0x8126 (regs [(1, 5), (2, 0xFF)] State.reset)
    (fun t => t.reg 1 == 2 && t.reg 0xF == 1) = true := by decide
theorem test_shr_legacy : run1 0x8126 (regs [(1, 0xFF), (2, 0x0A), (0xF, 1)] resetLegacy)
    (fun t => t.reg 1 == 5 && t.reg 2 == 0x0A && t.reg 0xF == 0) = true := by decide
/-- AR38, AR41. -/
theorem test_subnReg : run1 0x8127 (regs [(1, 3), (2, 5)] State.reset)
    (fun t => t.reg 1 == 2 && t.reg 0xF == 1) = true := by decide
theorem test_subnReg_vf : run1 0x8F27 (regs [(0xF, 2), (2, 0xA)] State.reset) (fun t => t.reg 0xF == 8) = true := by
  decide
/-- AR42, AR47. -/
theorem test_shl : run1 0x812E (regs [(1, 0x81)] State.reset) (fun t => t.reg 1 == 2 && t.reg 0xF == 1) = true := by
  decide
theorem test_shl_legacy : run1 0x812E (regs [(1, 1), (2, 0xC0)] resetLegacy)
    (fun t => t.reg 1 == 0x80 && t.reg 0xF == 1) = true := by decide
/-- AR50. -/
theorem test_rnd : runRand 0xC30F 0xB7 State.reset (fun t => t.reg 3 == 7) = true := by decide
/-- R173: whatever the free draw is, NN = 0 gives 0 (AR52). -/
theorem test_rnd_free : ∃ t, step (State.reset.withFetchWord 16 0xC300) = .next t ∧
    t.reg 3 = Config.freeRand 0 &&& 0 := ⟨_, rfl, rfl⟩

/-! ## Index register and memory -/

/-- IM1. -/
theorem test_ldI : run1 0xA22A State.reset (fun t => t.i == 0x22A) = true := by decide
/-- IM6. -/
theorem test_addI : run1 0xF21E (regs [(2, 0xFF)] (atI 0xF80 State.reset))
    (fun t => t.i == 0x07F && t.reg 0xF == 0) = true := by decide
/-- IM9 (E9), IM13. -/
theorem test_ldF : run1 0xFA29 (regs [(0xA, 0xA)] State.reset) (fun t => t.i == 0x082) = true := by decide
theorem test_ldF_top : run1 0xF029 (regs [(0, 0xFF)] State.reset) (fun t => t.i == 0x54B) = true := by decide
/-- IM15 (E6), IM20. -/
theorem test_ldB : run1 0xF033 (regs [(0, 7)] (bytes 0x300 [9, 9, 9] (atI 0x300 State.reset)))
    (fun t => t.readBlock 0x300 3 == [0, 0, 7] && t.i == 0x300) = true := by decide
theorem test_ldB_fatal : run1 0xF033 (regs [(0, 0x7B)] (atI 0xFFD State.reset))
    (fun t => latch .addressOutOfRange 0xFFF t && t.readBlock 0xFFD 2 == [0, 0]) = true := by decide
/-- IM24, IM29. -/
theorem test_stRegs : run1 0xF255 (regs [(0, 1), (1, 2), (2, 3), (3, 4)] (atI 0x300 State.reset))
    (fun t => t.readBlock 0x300 4 == [1, 2, 3, 0] && t.i == 0x303) = true := by decide
theorem test_stRegs_4096 : run1 0xF255 (regs [(0, 1), (1, 2), (2, 3)] (atI 0xFFD reset4096))
    (fun t => t.readBlock 0xFFD 3 == [1, 2, 3] && t.i == 0x000) = true := by decide
/-- IM34 (the font), IM35. -/
theorem test_ldRegs : run1 0xFF65 (atI 0x050 State.reset)
    (fun t => t.firstRegs 16 == [0xF0, 0x90, 0x90, 0x90, 0xF0, 0x20, 0x60, 0x20, 0x20, 0x70, 0xF0, 0x10, 0xF0, 0x80,
      0xF0, 0xF0] && t.i == 0x060) = true := by decide
theorem test_ldRegs_fatal : run1 0xF265 (atI 0xFFD State.reset)
    (fun t => latch .addressOutOfRange 0xFFF t && t.i == 0xFFD) = true := by decide

/-! ## Display -/

/-- DS1, DS2. -/
theorem test_cls : run1 0x00E0 (lit [(0, 0), (63, 31), (10, 5)] State.reset)
    (fun t => t.fb == Frame.blank && t.requiresRepaint) = true := by decide
/-- DS9 (E8): origin (62, 31), two of eleven set bits drawn. -/
theorem test_drw_clipped : run1 0xD012 (regs [(0, 0x3E), (1, 0x1F)] (bytes 0x300 [0xE0, 0xFF] (atI 0x300 State.reset)))
    (fun t => t.fb == (lit [(62, 31), (63, 31)] State.reset).fb && t.reg 0xF == 0 && t.requiresRepaint) = true := by
  decide
/-- DS6: eight pixels toggled, one of them turned off. -/
theorem test_drw_collision : run1 0xD011 (bytes 0x300 [0xFF] (atI 0x300 (lit [(3, 0)] State.reset)))
    (fun t => t.fb == (lit [(0, 0), (1, 0), (2, 0), (4, 0), (5, 0), (6, 0), (7, 0)] State.reset).fb && t.reg 0xF == 1)
      = true := by decide

/-! ## Keypad and timers -/

/-- KT3, KT5. -/
theorem test_skp : run1 0xE49E (regs [(4, 7)] (pressed [6, 8] State.reset)) (fun t => t.pc == 0x202) = true := by decide
theorem test_skp_fatal : run1 0xE49E (regs [(4, 0xFF)] State.reset)
    (fun t => latch .keyIndexOutOfRange 0x00FF t && t.pc == 0x202) = true := by decide
/-- KT6, KT7. -/
theorem test_sknp : run1 0xE4A1 (regs [(4, 7)] State.reset) (fun t => t.pc == 0x204) = true := by decide
theorem test_sknp_no_skip : run1 0xE4A1 (regs [(4, 7)] (pressed [7] State.reset)) (fun t => t.pc == 0x202) = true := by
  decide
/-- KT13, KT16. -/
theorem test_ldVxK : run1 0xF50A (regs [(5, 0x33)] (pressed [9, 3, 0xC] State.reset))
    (fun t => t.reg 5 == 3 && t.pc == 0x202) = true := by decide
theorem test_ldVxK_none : run1 0xF50A (atPc 0xFFE reset4096) (fun t => t.pc == 0xFFE) = true := by decide
/-- KT17, KT19, KT21. -/
theorem test_ldVxDt : run1 0xF307 { State.reset with dt := 60 } (fun t => t.reg 3 == 0x3C && t.dt == 60) = true := by
  decide
theorem test_ldDtVx : run1 0xF315 (regs [(3, 0x3C)] State.reset) (fun t => t.dt == 60 && t.st == 0) = true := by decide
theorem test_ldStVx : run1 0xF318 (regs [(3, 2)] State.reset) (fun t => t.st == 2 && t.soundOn && t.dt == 0) = true := by
  decide

/-! ## Cycle, ticks and host events -/

/-- CY8: the second byte's address does not exist; PC is not advanced. -/
theorem test_fetch_fatal : run1 0x6000 (atPc 0xFFE State.reset)
    (fun t => latch .addressOutOfRange 0xFFF t && t.pc == 0xFFE) = true := by decide
/-- CY11. -/
theorem test_fetch_top : run1 0x6000 (atPc 0xFFF reset4096)
    (fun t => latch .addressOutOfRange 0x1000 t && t.pc == 0xFFF) = true := by decide
/-- CY3: the first cycle with nothing loaded. -/
theorem test_unloaded : holds (step State.reset) (fun t => latch .unrecognizedSuffix 0x0000 t && t.pc == 0x202) = true := by
  decide
/-- T13: a word that does not draw leaves the flag. -/
theorem test_repaint_sticky : run1 0x6005 { State.reset with requiresRepaint := true }
    (fun t => t.requiresRepaint && t.reg 0 == 5) = true := by decide
/-- T3, T5. -/
theorem test_tick : holds (step (script [.tick] { State.reset with dt := 255, st := 255 }))
    (fun t => t.dt == 254 && t.st == 254) = true := by decide
theorem test_tick_zero : holds (step (script [.tick] { State.reset with dt := 0, st := 1 }))
    (fun t => t.dt == 0 && t.st == 0 && !t.soundOn) = true := by decide
/-- T9. -/
theorem test_tick_halted : holds (step (script [.tick] (State.raise { State.reset with dt := 7 } .stackOverflow 0x202)))
    (fun t => t.dt == 7 && latch .stackOverflow 0x202 t) = true := by decide
/-- T11, T12, T18. -/
theorem test_setKey : holds (step (script [.setKey 4 true] (State.reset.raise .stackUnderflow 0)))
    (fun t => t.key 4 && t.halted) = true := by decide
theorem test_clearRepaint : holds (step (script [.clearRepaint] { State.reset with requiresRepaint := true }))
    (fun t => !t.requiresRepaint) = true := by decide
theorem test_quit : holds (step (script [.quit] State.reset)) (fun t => !t.running) = true := by decide
/-- R290: the parameters stay, the font is back, the latch is clear. -/
theorem test_reset : holds (step (script [.reset] (bytes 0x50 [1, 2] (reset4096.raise .stackUnderflow 0))))
    (fun t => t.cfg.memSize == 4096 && t.memRead 0x50 == some 0xF0 && !t.halted && t.pc == 0x200) = true := by decide
/-- R76, R294. -/
theorem test_load : holds (step (script [.load 1 0x2A] State.reset)) (fun t => t.memRead 0x201 == some 0x2A) = true := by
  decide
theorem test_load_late : step (script [.load 0 1] { State.reset with started := true }) =
    .refused (.loadOutsideWindow 0x200) := by rfl

/-! ## Witnesses: concrete states and operands that meet the hypotheses of the statements

Named after the statement; a suffix names the clause. `hot` is a halted state, `full` one with a full stack. -/

def hot : State := State.reset.raise .unrecognizedSuffix 0
def full : State := withStack (List.replicate 16 0x202) State.reset
def almostFull : State := withStack (List.replicate 15 0x202) State.reset
def one : State := withStack [0x204] State.reset
/-- The reset state with the word `6A2B` at 0x200. -/
def loaded : State := State.reset.withFetchWord 16 0x6A2B

theorem witness_DecodedWordIsItsInstructionsEncoding : decodeWord 0xA22A = .ok (.ldI 0x22A) := rfl

theorem witness_OpcodeSelectsItsOneRow :
    (⟨0xF00F, 0x8007⟩ : OpcodeRow) ∈ opcodeMap ∧ (0x8AB7 : Word) &&& 0xF00F = 0x8007 ∧
      decodeWord 0x8AB7 = .ok (.subnReg 0xA 0xB) := by decide

theorem witness_IllegalWordsAreThoseOfTheTable : illegalWord 0x00E1 = true ∧ illegalWord 0x00E0 = false := by decide

theorem witness_StepRunsTheDecodedInstruction : loaded.halted = false ∧ loaded.memRead loaded.pc.toNat = some 0x6A ∧
    loaded.memRead (loaded.pc.toNat + 1) = some 0x2B ∧ decode [0x6A, 0x2B] = .ok (.ldImm 0xA 0x2B, []) ∧
    loaded.pending = [] := by decide
theorem witness_StepRunsTheDecodedInstruction_event : (script [.cycle 7] loaded).halted = false ∧
    (script [.cycle 7] loaded).memRead 0x200 = some 0x6A ∧ (script [.cycle 7] loaded).memRead 0x201 = some 0x2B ∧
    (script [.cycle 7] loaded).pending = [.cycle 7] := by decide

theorem witness_FetchReadsTwoBytesOrHalts_low : (atPc 0xFFF State.reset).halted = false ∧
    (atPc 0xFFF State.reset).cfg.wellFormed = true ∧
    (atPc 0xFFF State.reset).cfg.memSize ≤ (atPc 0xFFF State.reset).pc.toNat := by decide
theorem witness_FetchReadsTwoBytesOrHalts_high : (atPc 0xFFE State.reset).halted = false ∧
    (atPc 0xFFE State.reset).cfg.wellFormed = true ∧
    (atPc 0xFFE State.reset).pc.toNat + 1 = (atPc 0xFFE State.reset).cfg.memSize := by decide
theorem witness_FetchReadsTwoBytesOrHalts_both : (atPc 0xFFD State.reset).halted = false ∧
    (atPc 0xFFD State.reset).cfg.wellFormed = true ∧
    (atPc 0xFFD State.reset).pc.toNat + 1 < (atPc 0xFFD State.reset).cfg.memSize := by decide
theorem witness_FetchReadsTwoBytesOrHalts_4096 : (atPc 0xFFF reset4096).halted = false ∧
    (atPc 0xFFF reset4096).cfg.wellFormed = true ∧ (atPc 0xFFF reset4096).pc = 0xFFF := by decide

theorem witness_IllegalWordHaltsWithPcAdvanced : State.reset.halted = false ∧
    State.reset.memRead 0x200 = some 0 ∧ State.reset.memRead 0x201 = some 0 ∧
    ∀ r ∈ opcodeMap, Opcode.ofBytes 0 0 &&& r.mask ≠ r.pattern := by decide
theorem witness_IllegalWordHaltsWithPcAdvanced_converse : ∃ t, cycle 0 State.reset = .next t ∧ t.halted = true ∧
    t.faultCause = .unrecognizedSuffix := ⟨_, rfl, rfl, rfl⟩

theorem witness_RepaintFlagIsSetByIdentity : State.reset.halted = false ∧
    ∃ t, runInstr .cls State.reset = .next t := ⟨rfl, _, rfl⟩

theorem witness_HaltedStateAbsorbsCyclesAndTicks : hot.halted = true ∧ hot.pending = [] ∧
    (∀ e ∈ [Event.cycle 1, .tick, .setKey 0xF true, .clearRepaint, .quit, .reset],
      (script [e] hot).halted = true ∧ (script [e] hot).pending = [e]) := by decide
theorem witness_HaltedStateAbsorbsCyclesAndTicks_reset :
    ∃ t, step (script [.reset] hot) = .next t ∧ t.halted = false := ⟨_, rfl, rfl⟩

theorem witness_HaltedMachineStaysHaltedWithoutReset : (script [.tick, .quit] hot).halted = true ∧
    Event.reset ∉ (script [.tick, .quit] hot).pending ∧
    ∃ t, Host.Core.run Sys2Proof.core 2 (script [.tick, .quit] hot) = .next t := by
  refine ⟨by decide, by decide, _, rfl⟩
theorem witness_HaltedMachineStaysHaltedWithoutReset_started :
    let s : State := { hot with started := true, pending := [.tick, .quit] }
    s.halted = true ∧ Event.reset ∉ s.pending ∧ s.started = true ∧
      ∃ t, Host.Core.run Sys2Proof.core 2 s = .next t := by
  refine ⟨by decide, by decide, by decide, _, rfl⟩

theorem witness_ResetStateMeetsTheInvariant : Config.default.wellFormed = true := by decide

/-- The state after reset meets the invariant. -/
theorem reset_inv : State.reset.Inv where
  cfg := by decide
  pc := by decide
  index := by decide
  depth := Nat.zero_le _
  entries := by simp [State.reset, State.resetWith]
  mem := rfl
  latchClear := fun _ => ⟨rfl, rfl⟩
  latchSet := fun h => by cases h
  latchStarted := fun h => by cases h
  noHandler := fun h => by cases h
theorem witness_EveryStepKeepsTheInvariant : State.reset.Inv ∧ ∃ t, step State.reset = .next t := ⟨reset_inv, _, rfl⟩

theorem witness_ResetEventGivesTheResetValues : (script [.reset] hot).pending = [.reset] := rfl

theorem witness_InstructionsWriteOnlyTheirParts :
    ∃ t, exec (.stRegs 0xF) State.reset = .next t ∧ t.halted = false := ⟨_, rfl, rfl⟩
/-- The first byte on either side of the block of `FX33`, and of `FX55` with X = 0xF. -/
theorem witness_InstructionsWriteOnlyTheirParts_bytes :
    let s := atI 0x300 State.reset
    (0x2FF < blockBase s ∧ blockBase s + storedBytes (.ldB 0) ≤ 0x303) ∧
      (blockBase s + storedBytes (.stRegs 0xF) ≤ 0x310) := by decide

theorem witness_FlagRegisterHoldsZeroOrOne_add : ∃ t, exec (.addReg 0xF 0) State.reset = .next t := ⟨_, rfl⟩
theorem witness_FlagRegisterHoldsZeroOrOne_draw :
    ∃ t, exec (.drw 0xF 0 0) State.reset = .next t ∧ t.halted = false := ⟨_, rfl, rfl⟩
theorem witness_FlagRegisterHoldsZeroOrOne_sub : (0xE : Nibble) ≠ 0xF ∧
    Instr.shl 0xE 0 ∈ [Instr.subReg 0xE 0, .shr 0xE 0, .subnReg 0xE 0, .shl 0xE 0] ∧
    ∃ t, exec (.shl 0xE 0) State.reset = .next t := ⟨by decide, by decide, _, rfl⟩
theorem witness_FlagRegisterHoldsZeroOrOne_other : Part.reg 0xF ∉ mayWrite (.ldRegs 0xE) ∧
    ∃ t, exec (.ldRegs 0xE) State.reset = .next t := ⟨by decide, _, rfl⟩

theorem witness_PcChangesOnlyInTheListedWays : ∃ t, exec (.ldVxK 0) State.reset = .next t := ⟨_, rfl⟩

theorem witness_FatalConditionsAreTheListedOnesAndCommitNothing : State.reset.halted = false ∧
    fatalCondition State.reset .ret = some (.stackUnderflow, 0) ∧ fatalCondition one .ret = none := by decide

theorem witness_CallThenReturnRestoresPcAndStack : almostFull.halted = false ∧
    almostFull.sp < almostFull.cfg.stackDepth ∧
    ∃ t u, exec (.call 0xFFF) almostFull = .next t ∧ State.stack u = t.stack :=
  ⟨by decide, by decide, _, _, rfl, rfl⟩

theorem witness_StoredByteReadsBack : Memory.wf State.reset.cfg State.reset.mem = true ∧
    0xFFE < State.reset.cfg.memSize ∧ State.reset.cfg.memSize ≤ 0xFFF := by decide

theorem witness_StoreIsSeenByTheNextFetch :
    let s := atI 0xFFD (atPc 0xFFD State.reset)
    Memory.wf s.cfg s.mem = true ∧ s.halted = false ∧ 1 ≤ (1 : Nibble).toNat ∧ s.i = s.pc ∧
      s.i.toNat + (1 : Nibble).toNat < s.cfg.memSize := by decide

theorem witness_OutputsAreNeverReadByInstructions : ∃ t, exec (.ldStVx 0xF) State.reset = .next t := ⟨_, rfl⟩

theorem witness_OnlyRandomReadsTheDraw : (∀ x nn, Instr.ldImm 0 1 ≠ .rnd x nn) ∧
    ∃ t, exec (.ldImm 0 1) State.reset = .next t := ⟨fun _ _ h => (by cases h), _, rfl⟩

theorem witness_OnlyALoadOutsideItsWindowIsRefused_late :
    ∃ k b rest, (script [.load 0 1] { State.reset with started := true }).pending = .load k b :: rest ∧
      (({ State.reset with started := true } : State).started = true ∨ State.reset.cfg.memSize ≤ 0x200 + k) :=
  ⟨0, 1, [], rfl, .inl rfl⟩
theorem witness_OnlyALoadOutsideItsWindowIsRefused_high :
    ∃ k b rest, (script [.load 0xDFF 1] State.reset).pending = .load k b :: rest ∧
      (State.reset.started = true ∨ State.reset.cfg.memSize ≤ 0x200 + k) :=
  ⟨0xDFF, 1, [], rfl, .inr (by decide)⟩
theorem witness_OnlyALoadOutsideItsWindowIsRefused_answers :
    ¬ ∃ k b rest, State.reset.pending = .load k b :: rest ∧
      (State.reset.started = true ∨ State.reset.cfg.memSize ≤ 0x200 + k) := by
  rintro ⟨_, _, _, h, _⟩; cases h

theorem witness_LoadPlacesAProgramByte : (script [.load 0xDFE 1] State.reset).pending = [.load 0xDFE 1] ∧
    State.reset.started = false ∧ 0x200 + 0xDFE < State.reset.cfg.memSize ∧
    Memory.wf State.reset.cfg State.reset.mem = true := by decide

theorem witness_TickCountsBothTimersDown : (script [.tick] State.reset).pending = [.tick] ∧
    (script [.tick] State.reset).halted = false ∧ (script [.tick] hot).halted = true ∧
    (script [.tick, .tick] State.reset).pending = List.replicate 2 .tick := by decide

theorem witness_HostWritesOneLatchOrTheRepaintFlag :
    (script [.setKey 0xF true] State.reset).pending = [.setKey 0xF true] ∧
    (script [.clearRepaint] State.reset).pending = [.clearRepaint] ∧
    (script [.quit] State.reset).pending = [.quit] ∧ (script [.quit] State.reset).running = true := by decide

theorem witness_LatchesAndRunningAreTheHosts_key :
    ∃ t, step (script [.setKey 0 true] State.reset) = .next t ∧
      ∃ k, t.key k ≠ (script [.setKey 0 true] State.reset).key k := ⟨_, rfl, 0, by decide⟩
theorem witness_LatchesAndRunningAreTheHosts_running :
    ∃ t, step (script [.quit] State.reset) = .next t ∧ t.running ≠ (script [.quit] State.reset).running :=
  ⟨_, rfl, by decide⟩

theorem witness_CallPushesTheReturnAddress : almostFull.sp < almostFull.cfg.stackDepth ∧
    full.cfg.stackDepth ≤ full.sp := by decide

theorem witness_ReturnPopsIntoPc : 0 < one.sp ∧ State.reset.sp = 0 := by decide

/-- Each skip, with its condition true and with it false. -/
theorem witness_SkipsAdvanceOnceMoreWhenTheConditionHolds :
    (State.reset.reg 3 = 0 ∧ State.reset.reg 3 ≠ 0x2A) ∧
    (State.reset.reg 1 = State.reset.reg 2 ∧
      (regs [(2, 1)] State.reset).reg 1 ≠ (regs [(2, 1)] State.reset).reg 2) := by decide

theorem witness_JumpWithOffsetAddsV0 :
    (0xF00 : Addr).toNat + ((regs [(0, 0xFF)] State.reset).reg 0).toNat ≤ 0xFFF ∧
    0xFFF < (0xF01 : Addr).toNat + ((regs [(0, 0xFF)] State.reset).reg 0).toNat := by decide

theorem witness_AddImmediateWrapsWithoutFlag : ∃ t, exec (.ldImm 0xF 0xFF) State.reset = .next t := ⟨_, rfl⟩

theorem witness_TimersMoveToAndFromRegisters : ∃ t, exec (.ldVxDt 0) { State.reset with st := 1 } = .next t := ⟨_, rfl⟩

theorem witness_register_other_than_vf : (0xE : Nibble) ≠ 0xF := by decide

/-- The source operand of a shift, without and with LEGACY_SHIFT. -/
theorem witness_ShiftsMoveOneBitAndKeepTheLostOne :
    (1 : Byte) = (if State.reset.cfg.legacyShift then (regs [(1, 1)] State.reset).reg 2
      else (regs [(1, 1)] State.reset).reg 1) ∧
    (1 : Byte) = (if resetLegacy.cfg.legacyShift then (regs [(2, 1)] resetLegacy).reg 2
      else (regs [(2, 1)] resetLegacy).reg 1) := by decide

theorem witness_BcdStoresThreeDigitsAtI : Memory.wf State.reset.cfg State.reset.mem = true ∧
    blockBase (atI 0xFFC State.reset) + 2 < State.reset.cfg.memSize ∧
    State.reset.cfg.memSize ≤ blockBase (atI 0xFFD State.reset) + 2 := by decide

theorem witness_StoreAndLoadRegisters : Memory.wf State.reset.cfg State.reset.mem = true ∧
    blockBase (atI 0xFEF State.reset) + (0xF : Nibble).toNat < State.reset.cfg.memSize ∧
    State.reset.cfg.memSize ≤ blockBase (atI 0xFF0 State.reset) + (0xF : Nibble).toNat := by decide

theorem witness_LoadRegistersUndoesStoreRegisters :
    let s := atI 0xFFE State.reset
    Memory.wf s.cfg s.mem = true ∧ s.halted = false ∧ blockBase s + (0 : Nibble).toNat < s.cfg.memSize ∧
      ∃ t u, exec (.stRegs 0) s = .next t ∧ State.cfg u = t.cfg ∧ State.mem u = t.mem ∧ State.i u = s.i :=
  ⟨by decide, by decide, by decide, _, atI 0xFFE (State.reset.storeBlock 0xFFE [0]), rfl, rfl, rfl, rfl⟩

theorem witness_ClearScreenTurnsEveryPixelOff : State.reset.halted = false := rfl

theorem witness_DrawXorsTheClippedSprite :
    ((0 : Nibble) = 0 ∧ blockBase (atI 0xFF0 State.reset) + (0xF : Nibble).toNat ≤ State.reset.cfg.memSize) ∧
    ((0xF : Nibble) ≠ 0 ∧ State.reset.cfg.memSize < blockBase (atI 0xFF1 State.reset) + (0xF : Nibble).toNat) := by
  decide

/-- A draw that turns a pixel off, and one that turns none off. -/
theorem witness_CollisionFlagSaysAPixelWasTurnedOff :
    (∃ t, exec (.drw 0 0 1) (atI 0x50 (lit [(0, 0)] State.reset)) = .next t ∧
      (atI 0x50 (lit [(0, 0)] State.reset)).pixel 0 0 = true ∧ t.pixel 0 0 = false) ∧
    (∃ t, exec (.drw 0 0 0) State.reset = .next t ∧ ¬ ∃ px py, State.reset.pixel px py = true ∧ t.pixel px py = false) := by
  refine ⟨⟨_, rfl, by decide, by decide⟩, _, rfl, ?_⟩
  rintro ⟨px, py, h, -⟩
  have hb : State.reset.pixel px py = false := by
    show Frame.get _ px py = false
    unfold Frame.get
    split <;> simp [State.reset, State.resetWith]
  rw [hb] at h; cases h

theorem witness_DrawingTwiceRestoresTheFramebuffer : (0 : Nibble) ≠ 0xF ∧ (0xE : Nibble) ≠ 0xF ∧
    State.reset.halted = false ∧ blockBase (atI 0xFFE State.reset) + (1 : Nibble).toNat ≤ State.reset.cfg.memSize ∧
    ∃ t, exec (.drw 0 0xE 1) (atI 0xFFE State.reset) = .next t :=
  ⟨by decide, by decide, rfl, by decide, _, rfl⟩

theorem witness_KeySkipsFollowTheSelectedLatch :
    ((regs [(0, 0xF)] State.reset).reg 0).toNat = (0xF : Nibble).toNat ∧
    (pressed [0xF] State.reset).key 0xF = true ∧ State.reset.key 0xF = false ∧
    0xF < ((regs [(0, 0x10)] State.reset).reg 0).toNat ∧ Instr.sknp 0 ∈ [Instr.skp 0, .sknp 0] := by decide

theorem witness_WaitForKeyTakesAPressedKeyOrRepeats_pressed : (∃ k, (pressed [0xF] State.reset).key k = true) ∧
    State.reset.cfg.keyPick = .lowest ∧ (∃ k, (pressed [0, 0xF] resetAnyKey).key k = true) :=
  ⟨⟨0xF, by decide⟩, rfl, 0, by decide⟩
theorem witness_WaitForKeyTakesAPressedKeyOrRepeats_none : (∀ k, (atPc 0xFFF State.reset).key k = false) ∧
    (atPc 0xFFF State.reset).pc.toNat ≤ 0xFFF := by
  refine ⟨fun k => ?_, by decide⟩
  simp [State.key, atPc, State.reset, State.resetWith]

end Sys2Proof.Tests
end

section
/-! PROOF. `1NNN` (R142): its word decodes to JP, and JP loads PC with NNN and changes nothing else. -/

namespace Sys2Proof.Machine

/-- R93, R94 row 3: every word of family 1 is a jump, to its NNN field. -/
theorem decodeWord_of_family_one {op : Word} (h : Opcode.family op = 0x1) :
    decodeWord op = .ok (.jp (Opcode.nnn op)) := by
  unfold decodeWord
  rw [h]
  rfl

theorem decodeWord_wordNNN_one (nnn : Addr) : decodeWord (wordNNN 0x1 nnn) = .ok (.jp nnn) := by
  rw [decodeWord_of_family_one (family_wordNNN 0x1 nnn), nnn_wordNNN]

/-- R142: a jump always answers, whatever the state. -/
theorem exec_jp (nnn : Addr) (s : State) : exec (.jp nnn) s = .next { s with pc := addrOperand nnn } := rfl

/-- Settles O29: PC takes the zero-extended operand, and a write to PC leaves every other part of the state. -/
theorem jumpLoadsPc : Obligations.JumpLoadsPc := by
  intro nnn s
  refine ⟨decodeWord_wordNNN_one nnn, _, exec_jp nnn s, ?pcIsNnn, ?frame⟩
  case pcIsNnn => exact addrOperand_toNat nnn
  case frame => exact .withPc s (addrOperand nnn)

end Sys2Proof.Machine
end

section
/-! PROOF. `6XNN`, `7XNN` and `8XY0` to `8XY3` (spec/42_arithmetic.md R161 to R166): each decodes from its word and
writes one register, Vx. No flag is written because the whole of the meaning is a single `State.setReg`. -/

namespace Sys2Proof.Machine

/-! ## Decoding -/

/-- R93: family 6 has one instruction, so its words are told by the top nibble alone. -/
theorem decodeWord_wordXNN_six (x : Nibble) (nn : Byte) : decodeWord (wordXNN 0x6 x nn) = .ok (.ldImm x nn) := by
  unfold decodeWord
  rw [family_wordXNN, x_wordXNN, nn_wordXNN]
  rfl

/-- R93: family 7 has one instruction as well. -/
theorem decodeWord_wordXNN_seven (x : Nibble) (nn : Byte) : decodeWord (wordXNN 0x7 x nn) = .ok (.addImm x nn) := by
  unfold decodeWord
  rw [family_wordXNN, x_wordXNN, nn_wordXNN]
  rfl

/-- R93, R97: family 8 goes on to its suffix. -/
theorem decodeWord_wordXYN_eight (x y n : Nibble) :
    decodeWord (wordXYN 0x8 x y n) = decodeFamily8 (wordXYN 0x8 x y n) := by
  unfold decodeWord
  rw [family_wordXYN]
  rfl

/-! ## Execution -/

theorem exec_ldImm (x : Nibble) (nn : Byte) (s : State) : exec (.ldImm x nn) s = .next (s.setReg x nn) := rfl

theorem exec_addImm (x : Nibble) (nn : Byte) (s : State) :
    exec (.addImm x nn) s = .next (s.setReg x (sum8 (s.reg x) nn)) := rfl

theorem exec_ldReg (x y : Nibble) (s : State) : exec (.ldReg x y) s = .next (s.setReg x (s.reg y)) := rfl

theorem exec_orReg (x y : Nibble) (s : State) : exec (.orReg x y) s = .next (s.setReg x (s.reg x ||| s.reg y)) := rfl

theorem exec_andReg (x y : Nibble) (s : State) : exec (.andReg x y) s = .next (s.setReg x (s.reg x &&& s.reg y)) := rfl

theorem exec_xorReg (x y : Nibble) (s : State) : exec (.xorReg x y) s = .next (s.setReg x (s.reg x ^^^ s.reg y)) := rfl

/-- The rule of the instructions whose meaning is one register write: Vx holds the value, the rest is unchanged. -/
theorem exec_writes_one_register {i : Instr} {s : State} {x : Nibble} {b : Byte}
    (h : exec i s = .next (s.setReg x b)) : ∃ t, exec i s = .next t ∧ t.reg x = b ∧ UnchangedBut [.reg x] s t :=
  ⟨_, h, State.reg_setReg_same s x b, .setReg s x b⟩

/-- R162 from any state, with the sum as an integer. -/
theorem exec_addImm_adds (x : Nibble) (nn : Byte) (s : State) :
    ∃ t, exec (.addImm x nn) s = .next t ∧ (t.reg x).toNat = ((s.reg x).toNat + nn.toNat) % 256 ∧
      UnchangedBut [.reg x] s t := by
  obtain ⟨t, ht, hreg, hframe⟩ := exec_writes_one_register (exec_addImm x nn s)
  exact ⟨t, ht, by rw [hreg, sum8_toNat], hframe⟩

/-! ## The statements -/

/-- Settles O34: a load is one register write, which also covers X = 0xF. -/
theorem loadImmediateWritesOneRegister : Obligations.LoadImmediateWritesOneRegister := by
  intro x nn s
  exact ⟨decodeWord_wordXNN_six x nn, exec_writes_one_register (exec_ldImm x nn s)⟩

/-- Settles O35: an addition stores the narrowed sum; after a load of `a` the register it reads holds `a`. -/
theorem addImmediateWrapsWithoutFlag : Obligations.AddImmediateWrapsWithoutFlag := by
  intro x nn s
  refine ⟨decodeWord_wordXNN_seven x nn, exec_addImm_adds x nn s, ?afterLoad⟩
  case afterLoad =>
    intro a t hload
    obtain ⟨u, hu, hsum, -⟩ := exec_addImm_adds x nn t
    have hloaded : t.reg x = a := by
      rw [exec_ldImm] at hload
      cases hload
      exact State.reg_setReg_same s x a
    exact ⟨u, hu, by rw [hsum, hloaded]⟩

/-- Settles O36: the suffix selects the operation, and each operation is one register write of a value whose bits are
those of the operands combined. -/
theorem moveAndLogicActBitwiseWithoutFlag : Obligations.MoveAndLogicActBitwiseWithoutFlag := by
  intro x y s
  refine ⟨?decodes, exec_writes_one_register (exec_ldReg x y s), ?or, ?and, ?xor⟩
  case decodes =>
    simp only [decodeWord_wordXYN_eight, decodeFamily8, n_wordXYN, x_wordXYN, y_wordXYN]
    exact ⟨rfl, rfl, rfl, rfl⟩
  case or =>
    obtain ⟨t, ht, hreg, hframe⟩ := exec_writes_one_register (exec_orReg x y s)
    exact ⟨t, ht, fun b => by rw [hreg, BitVec.getLsbD_or], hframe⟩
  case and =>
    obtain ⟨t, ht, hreg, hframe⟩ := exec_writes_one_register (exec_andReg x y s)
    exact ⟨t, ht, fun b => by rw [hreg, BitVec.getLsbD_and], hframe⟩
  case xor =>
    obtain ⟨t, ht, hreg, hframe⟩ := exec_writes_one_register (exec_xorReg x y s)
    exact ⟨t, ht, fun b => by rw [hreg, BitVec.getLsbD_xor], hframe⟩

end Sys2Proof.Machine
end

section
/-! PROOF. `ANNN` and `FX1E` (spec/43_index_memory.md R191, R192): each decodes from its word and writes I alone, so no
flag is written. -/

namespace Sys2Proof.Machine

/-! ## Decoding -/

/-- R93: family A has one instruction, so its words are told by the top nibble alone. -/
theorem decodeWord_wordNNN_ten (nnn : Addr) : decodeWord (wordNNN 0xA nnn) = .ok (.ldI nnn) := by
  unfold decodeWord
  rw [family_wordNNN, nnn_wordNNN]
  rfl

/-- R93, R98: family F goes on to its suffix. -/
theorem decodeWord_wordXNN_fifteen (x : Nibble) (nn : Byte) :
    decodeWord (wordXNN 0xF x nn) = decodeFamilyF (wordXNN 0xF x nn) := by
  unfold decodeWord
  rw [family_wordXNN]
  rfl

/-- R98: the suffix 0x1E of family F selects ADD I. -/
theorem decodeWord_wordXNN_addI (x : Nibble) : decodeWord (wordXNN 0xF x 0x1E) = .ok (.addI x) := by
  rw [decodeWord_wordXNN_fifteen, decodeFamilyF, nn_wordXNN, x_wordXNN]
  rfl

/-! ## Execution -/

theorem exec_ldI (nnn : Addr) (s : State) : exec (.ldI nnn) s = .next { s with i := addrOperand nnn } := rfl

theorem exec_addI (x : Nibble) (s : State) :
    exec (.addI x) s = .next { s with i := wrap12 (s.i.toNat + (s.reg x).toNat) } := rfl

/-- The rule of the instructions whose meaning is one write of I: I holds the value, the rest is unchanged. -/
theorem exec_writes_index {ins : Instr} {s : State} {w : Word} (h : exec ins s = .next { s with i := w }) :
    ∃ t, exec ins s = .next t ∧ t.i.toNat = w.toNat ∧ UnchangedBut [.index] s t :=
  ⟨_, h, rfl, .withIndex s w⟩

/-! ## The statement -/

/-- Settles O41: each is one write of I, of the zero-extended operand or of the sum wrapped to 12 bits. -/
theorem indexLoadsAndAddsModulo4096 : Obligations.IndexLoadsAndAddsModulo4096 := by
  intro x nnn s
  refine ⟨⟨decodeWord_wordNNN_ten nnn, decodeWord_wordXNN_addI x⟩, ?load, ?add⟩
  case load =>
    rw [← addrOperand_toNat nnn]
    exact exec_writes_index (exec_ldI nnn s)
  case add =>
    rw [← wrap12_toNat]
    exact exec_writes_index (exec_addI x s)

end Sys2Proof.Machine
end

section
/-! PROOF. `00E0` (spec/44_display.md R210): it decodes from its word and writes the framebuffer alone; the repaint flag
is written afterwards, by the cycle (R124), and does not depend on what the screen showed. -/

namespace Sys2Proof.Machine

/-! ## Decoding -/

/-- R93: family 0 goes on to its suffix. -/
theorem decodeWord_wordNNN_zero (nnn : Addr) : decodeWord (wordNNN 0x0 nnn) = decodeFamily0 (wordNNN 0x0 nnn) := by
  unfold decodeWord
  rw [family_wordNNN]
  rfl

/-- R95: the suffix 0x0E0 of family 0 selects CLS. -/
theorem decodeWord_cls : decodeWord 0x00E0 = .ok .cls := by
  have hword : (0x00E0 : Word) = wordNNN 0x0 0x0E0 := rfl
  rw [hword, decodeWord_wordNNN_zero, decodeFamily0, nnn_wordNNN]
  rfl

/-! ## Execution -/

/-- R210: a clear always answers, whatever the state. -/
theorem exec_cls (s : State) : exec .cls s = .next { s with fb := Frame.blank } := rfl

/-- R31: every pixel of a blank framebuffer is off, on the grid and outside it. -/
theorem State.pixel_of_fb_blank {s : State} (h : s.fb = Frame.blank) (x y : Nat) : s.pixel x y = false := by
  rw [State.pixel, h, Frame.get_blank]

/-- R32: a pixel that is off has the all-zero colour. -/
theorem State.color_of_pixel_off {s : State} {x y : Nat} (h : s.pixel x y = false) : s.color x y = 0 := by
  rw [State.color, h]
  rfl

/-- R124: the rule of the instructions that set the flag: run without a fatal condition, the flag is set, whatever it
was before. -/
theorem runInstr_of_setsRepaint {i : Instr} {s t : State} (hexec : exec i s = .next t) (hi : setsRepaint i = true)
    (ht : t.halted = false) : runInstr i s = .next { t with requiresRepaint := true } := by
  rw [runInstr_of_exec hexec, afterExecute, if_pos ⟨hi, ht⟩]

/-! ## The statement -/

/-- Settles O47: the one write is of a blank framebuffer, and the latch it leaves alone is the one that decides whether
the cycle sets the flag. -/
theorem clearScreenTurnsEveryPixelOff : Obligations.ClearScreenTurnsEveryPixelOff := by
  intro s
  refine ⟨decodeWord_cls, _, exec_cls s, ?pixels, .withFb s Frame.blank, ?repaint⟩
  case pixels =>
    intro x y
    have hoff : ({ s with fb := Frame.blank } : State).pixel x y = false := State.pixel_of_fb_blank rfl x y
    exact ⟨hoff, State.color_of_pixel_off hoff⟩
  case repaint =>
    intro hrunning
    exact ⟨_, runInstr_of_setsRepaint (exec_cls s) rfl hrunning, rfl, .withRepaint _ true⟩

end Sys2Proof.Machine
end

section
/-! PROOF. `FX07`, `FX15` and `FX18` (spec/45_keypad_timers.md R234 to R236): each decodes from its word and moves one
byte between a register and a timer. That no instruction reads ST is shown by exchanging ST before the instruction: the
answer is the same, with ST exchanged in it, or, for `FX18`, which overwrites ST, the very same. -/

namespace Sys2Proof.Machine

/-! ## Decoding -/

/-- R98: the suffix 0x07 of family F selects LD Vx, DT. -/
theorem decodeWord_wordXNN_ldVxDt (x : Nibble) : decodeWord (wordXNN 0xF x 0x07) = .ok (.ldVxDt x) := by
  rw [decodeWord_wordXNN_fifteen, decodeFamilyF, nn_wordXNN, x_wordXNN]
  rfl

/-- R98: the suffix 0x15 of family F selects LD DT, Vx. -/
theorem decodeWord_wordXNN_ldDtVx (x : Nibble) : decodeWord (wordXNN 0xF x 0x15) = .ok (.ldDtVx x) := by
  rw [decodeWord_wordXNN_fifteen, decodeFamilyF, nn_wordXNN, x_wordXNN]
  rfl

/-- R98: the suffix 0x18 of family F selects LD ST, Vx. -/
theorem decodeWord_wordXNN_ldStVx (x : Nibble) : decodeWord (wordXNN 0xF x 0x18) = .ok (.ldStVx x) := by
  rw [decodeWord_wordXNN_fifteen, decodeFamilyF, nn_wordXNN, x_wordXNN]
  rfl

/-! ## Execution -/

theorem exec_ldVxDt (x : Nibble) (s : State) : exec (.ldVxDt x) s = .next (s.setReg x s.dt) := rfl

theorem exec_ldDtVx (x : Nibble) (s : State) : exec (.ldDtVx x) s = .next { s with dt := s.reg x } := rfl

theorem exec_ldStVx (x : Nibble) (s : State) : exec (.ldStVx x) s = .next { s with st := s.reg x } := rfl

/-! ## Exchanging ST -/

/-- `s` with another value in ST. -/
def State.withSt (b : Byte) (s : State) : State := { s with st := b }

/-- An answer with another value in ST of its next state. -/
def Result.withSt (b : Byte) : Result → Result
  | .next t => .next (t.withSt b)
  | .fault r => .fault r
  | .refused r => .refused r

/-! What an instruction reads of the state does not see ST. -/

@[simp] theorem State.reg_withSt (s : State) (b : Byte) (x : Nibble) : (s.withSt b).reg x = s.reg x := rfl
@[simp] theorem State.pc_withSt (s : State) (b : Byte) : (s.withSt b).pc = s.pc := rfl
@[simp] theorem State.key_withSt (s : State) (b : Byte) (k : Nibble) : (s.withSt b).key k = s.key k := rfl
@[simp] theorem State.pickKey_withSt (s : State) (b : Byte) : (s.withSt b).pickKey = s.pickKey := rfl
@[simp] theorem blockBase_withSt (s : State) (b : Byte) : blockBase (s.withSt b) = blockBase s := rfl
@[simp] theorem State.blockOutOfRange_withSt (s : State) (b : Byte) (base n : Nat) :
    (s.withSt b).blockOutOfRange base n = s.blockOutOfRange base n := rfl
@[simp] theorem State.readBlock_withSt (s : State) (b : Byte) (base n : Nat) :
    (s.withSt b).readBlock base n = s.readBlock base n := rfl

/-! The updates that branch or recurse commute with the exchange. -/

@[simp] theorem State.skipIf_withSt (s : State) (b : Byte) (c : Bool) :
    (s.withSt b).skipIf c = (s.skipIf c).withSt b := by
  cases c <;> rfl

@[simp] theorem State.push_withSt (s : State) (b : Byte) (w : Word) :
    (s.withSt b).push w = (s.push w).map (State.withSt b) := by
  rw [State.push, State.push, apply_ite (Option.map (State.withSt b))]
  rfl

@[simp] theorem State.pop_withSt (s : State) (b : Byte) :
    (s.withSt b).pop = s.pop.map (Prod.map id (State.withSt b)) := by
  obtain ⟨cfg, v, i, pc, _ | ⟨w, rest⟩⟩ := s <;> rfl

@[simp] theorem State.setRegsFrom_withSt (s : State) (b : Byte) (k : Nat) (bs : List Byte) :
    (s.withSt b).setRegsFrom k bs = (s.setRegsFrom k bs).withSt b := by
  induction bs generalizing s k with
  | nil => rfl
  | cons _ _ ih => exact ih (s.setReg _ _) (k + 1)

/-! The instructions that can be fatal, and the wait for a key, branch on a condition that does not see ST. -/

theorem exec_ret_withSt (s : State) (b : Byte) : exec .ret (s.withSt b) = Result.withSt b (exec .ret s) := by
  simp only [exec, execRet, State.pop_withSt]
  cases s.pop <;> rfl

theorem exec_call_withSt (nnn : Addr) (s : State) (b : Byte) :
    exec (.call nnn) (s.withSt b) = Result.withSt b (exec (.call nnn) s) := by
  simp only [exec, execCall, State.pc_withSt, State.push_withSt]
  cases s.push s.pc <;> rfl

theorem exec_jpV0_withSt (nnn : Addr) (s : State) (b : Byte) :
    exec (.jpV0 nnn) (s.withSt b) = Result.withSt b (exec (.jpV0 nnn) s) := by
  simp only [exec, execJpV0, apply_ite (Result.withSt b)]
  rfl

theorem exec_drw_withSt (x y n : Nibble) (s : State) (b : Byte) :
    exec (.drw x y n) (s.withSt b) = Result.withSt b (exec (.drw x y n) s) := by
  simp only [exec, execDrw, blockBase_withSt, State.blockOutOfRange_withSt]
  cases s.blockOutOfRange (blockBase s) n.toNat <;> rfl

theorem skipOnKey_withSt (x : Nibble) (down : Bool) (s : State) (b : Byte) :
    skipOnKey x down (s.withSt b) = Result.withSt b (skipOnKey x down s) := by
  simp only [skipOnKey, State.reg_withSt, State.key_withSt, State.skipIf_withSt]
  cases keyIndex (s.reg x) <;> rfl

theorem exec_ldVxK_withSt (x : Nibble) (s : State) (b : Byte) :
    exec (.ldVxK x) (s.withSt b) = Result.withSt b (exec (.ldVxK x) s) := by
  simp only [exec, execLdVxK, State.pickKey_withSt]
  cases s.pickKey <;> rfl

theorem exec_ldB_withSt (x : Nibble) (s : State) (b : Byte) :
    exec (.ldB x) (s.withSt b) = Result.withSt b (exec (.ldB x) s) := by
  simp only [exec, execLdB, blockBase_withSt, State.blockOutOfRange_withSt]
  cases s.blockOutOfRange (blockBase s) 3 <;> rfl

theorem exec_stRegs_withSt (x : Nibble) (s : State) (b : Byte) :
    exec (.stRegs x) (s.withSt b) = Result.withSt b (exec (.stRegs x) s) := by
  simp only [exec, execStRegs, blockBase_withSt, State.blockOutOfRange_withSt]
  cases s.blockOutOfRange (blockBase s) (regCount x) <;> rfl

theorem exec_ldRegs_withSt (x : Nibble) (s : State) (b : Byte) :
    exec (.ldRegs x) (s.withSt b) = Result.withSt b (exec (.ldRegs x) s) := by
  simp only [exec, execLdRegs, blockBase_withSt, State.blockOutOfRange_withSt, State.readBlock_withSt,
    State.setRegsFrom_withSt]
  cases s.blockOutOfRange (blockBase s) (regCount x) <;> rfl

/-- R236: an instruction other than `FX18` neither reads nor writes ST, so it carries an exchange of ST through. -/
theorem exec_withSt {i : Instr} (hi : ∀ x, i ≠ .ldStVx x) (s : State) (b : Byte) :
    exec i (s.withSt b) = Result.withSt b (exec i s) := by
  cases i with
  | ret => exact exec_ret_withSt s b
  | call nnn => exact exec_call_withSt nnn s b
  | jpV0 nnn => exact exec_jpV0_withSt nnn s b
  | seImm x nn => exact congrArg Host.Outcome.next (s.skipIf_withSt b _)
  | sneImm x nn => exact congrArg Host.Outcome.next (s.skipIf_withSt b _)
  | seReg x y => exact congrArg Host.Outcome.next (s.skipIf_withSt b _)
  | sneReg x y => exact congrArg Host.Outcome.next (s.skipIf_withSt b _)
  | skp x => exact skipOnKey_withSt x true s b
  | sknp x => exact skipOnKey_withSt x false s b
  | ldVxK x => exact exec_ldVxK_withSt x s b
  | ldB x => exact exec_ldB_withSt x s b
  | stRegs x => exact exec_stRegs_withSt x s b
  | ldRegs x => exact exec_ldRegs_withSt x s b
  | drw x y n => exact exec_drw_withSt x y n s b
  | ldStVx x => exact absurd rfl (hi x)
  | cls | jp | ldImm | addImm | ldReg | orReg | andReg | xorReg | addReg | subReg | shr | subnReg | shl | ldI | rnd
  | ldVxDt | ldDtVx | addI | ldF => rfl

/-- R236: `FX18` overwrites ST with a register, whatever ST held. -/
theorem exec_ldStVx_withSt (x : Nibble) (s : State) (b : Byte) :
    exec (.ldStVx x) (s.withSt b) = exec (.ldStVx x) s := rfl

/-- R236: no instruction reads ST: with any other value in ST before it, the answer differs in ST at most. -/
theorem exec_ignores_st (i : Instr) (b : Byte) {s t : State} (h : exec i s = .next t) :
    ∃ u, exec i (s.withSt b) = .next u ∧ UnchangedBut [.st] t u := by
  by_cases hi : ∀ x, i ≠ .ldStVx x
  · exact ⟨t.withSt b, by rw [exec_withSt hi, h]; rfl, .withSt t b⟩
  · push Not at hi
    obtain ⟨x, rfl⟩ := hi
    exact ⟨t, (exec_ldStVx_withSt x s b).trans h, .refl _ t⟩

/-! ## The statement -/

/-- Settles O53: each move is one write of a register or of a timer, `sound_on` is a function of the ST just written,
and an exchange of ST beforehand shows in no other part of any instruction's answer. -/
theorem timersMoveToAndFromRegisters : Obligations.TimersMoveToAndFromRegisters := by
  intro x s
  refine ⟨?decodes, exec_writes_one_register (exec_ldVxDt x s), ?setDt, ?setSt, ?noRead⟩
  case decodes => exact ⟨decodeWord_wordXNN_ldVxDt x, decodeWord_wordXNN_ldDtVx x, decodeWord_wordXNN_ldStVx x⟩
  case setDt => exact ⟨_, exec_ldDtVx x s, rfl, .withDt s (s.reg x)⟩
  case setSt => exact ⟨_, exec_ldStVx x s, rfl, rfl, .withSt s (s.reg x)⟩
  case noRead => exact fun i b t h => exec_ignores_st i b h

end Sys2Proof.Machine
end

section
/-! PROOF. The decoder and the encoder (spec/30_encoding.md sections 1 to 4, 6): they undo each other, the legal words
are those of the 34 rows of R94, and the rejected ones those of the table of R99. -/

namespace Sys2Proof

/-! ## A word from its fields (R92) -/

theorem wordNNN_fields (op : Word) : wordNNN (Opcode.family op) (Opcode.nnn op) = op := by
  apply BitVec.eq_of_toNat_eq
  rw [wordNNN_toNat, Opcode.family_toNat, Opcode.nnn_toNat]
  omega

theorem wordXNN_fields (op : Word) : wordXNN (Opcode.family op) (Opcode.x op) (Opcode.nn op) = op := by
  apply BitVec.eq_of_toNat_eq
  rw [wordXNN_toNat, Opcode.family_toNat, Opcode.x_toNat, Opcode.nn_toNat]
  omega

theorem wordXYN_fields (op : Word) :
    wordXYN (Opcode.family op) (Opcode.x op) (Opcode.y op) (Opcode.n op) = op := by
  apply BitVec.eq_of_toNat_eq
  rw [wordXYN_toNat, Opcode.family_toNat, Opcode.x_toNat, Opcode.y_toNat, Opcode.n_toNat]
  omega

/-! ## Decoding after encoding -/

/-- R93, R94: an instruction's word has the instruction's family and suffix, which select it, and its operand fields. -/
theorem decodeWord_encode (i : Instr) : decodeWord (encode i) = .ok i := by
  cases i with
  | cls | ret => simp [encode, decodeWord, decodeFamily0]
  | jp | call | ldI | jpV0 | seImm | sneImm | ldImm | addImm | rnd | drw => simp [encode, decodeWord]
  | seReg | sneReg => simp [encode, decodeWord, decodeSuffixZero]
  | ldReg | orReg | andReg | xorReg | addReg | subReg | shr | subnReg | shl => simp [encode, decodeWord, decodeFamily8]
  | skp | sknp => simp [encode, decodeWord, decodeFamilyE]
  | ldVxDt | ldVxK | ldDtVx | ldStVx | addI | ldF | ldB | stRegs | ldRegs => simp [encode, decodeWord, decodeFamilyF]

/-- R62, R90: the two bytes of an instruction, high byte first, decode to it, whatever follows them. -/
theorem decode_encodeBytes_append (i : Instr) (rest : List Byte) : decode (encodeBytes i ++ rest) = .ok (i, rest) := by
  simp [decode, encodeBytes, Opcode.ofBytes_hiByte_loByte, decodeWord_encode]

/-- Settles O2: the decoder reads back from the built word the fields the encoder put there. -/
theorem decodeOfEncodeIsTheInstruction : Obligations.DecodeOfEncodeIsTheInstruction :=
  fun i rest => ⟨decodeWord_encode i, decode_encodeBytes_append i rest⟩

/-! ## Encoding after decoding -/

/-- A word is the one built with its own family and NNN. -/
theorem wordNNN_of_fields {op : Word} {f : Nibble} {nnn : Addr} (hf : (Opcode.family op).toNat = f.toNat)
    (hn : (Opcode.nnn op).toNat = nnn.toNat) : wordNNN f nnn = op := by
  rw [← BitVec.eq_of_toNat_eq hf, ← BitVec.eq_of_toNat_eq hn, wordNNN_fields]

/-- A word is the one built with its own family, X and NN. -/
theorem wordXNN_of_fields {op : Word} {f : Nibble} {nn : Byte} (hf : (Opcode.family op).toNat = f.toNat)
    (hn : (Opcode.nn op).toNat = nn.toNat) : wordXNN f (Opcode.x op) nn = op := by
  rw [← BitVec.eq_of_toNat_eq hf, ← BitVec.eq_of_toNat_eq hn, wordXNN_fields]

/-- A word is the one built with its own family, X, Y and N. -/
theorem wordXYN_of_fields {op : Word} {f n : Nibble} (hf : (Opcode.family op).toNat = f.toNat)
    (hn : (Opcode.n op).toNat = n.toNat) : wordXYN f (Opcode.x op) (Opcode.y op) n = op := by
  rw [← BitVec.eq_of_toNat_eq hf, ← BitVec.eq_of_toNat_eq hn, wordXYN_fields]

theorem encode_of_decodeFamily0 {op : Word} {i : Instr} (hf : (Opcode.family op).toNat = 0x0)
    (h : decodeFamily0 op = .ok i) : encode i = op := by
  unfold decodeFamily0 at h
  split at h <;> cases h
  all_goals exact wordNNN_of_fields hf ‹_›

/-- Families 5 and 9, for the one instruction `ins` of the family. -/
theorem encode_of_decodeSuffixZero {op : Word} {i : Instr} {f : Nibble} {ins : Nibble → Nibble → Instr}
    (hins : ∀ x y, encode (ins x y) = wordXYN f x y 0x0) (hf : (Opcode.family op).toNat = f.toNat)
    (h : decodeSuffixZero ins op = .ok i) : encode i = op := by
  unfold decodeSuffixZero at h
  split at h <;> cases h
  exact (hins _ _).trans (wordXYN_of_fields hf ‹_›)

theorem encode_of_decodeFamily8 {op : Word} {i : Instr} (hf : (Opcode.family op).toNat = 0x8)
    (h : decodeFamily8 op = .ok i) : encode i = op := by
  unfold decodeFamily8 at h
  split at h <;> cases h
  all_goals exact wordXYN_of_fields hf ‹_›

theorem encode_of_decodeFamilyE {op : Word} {i : Instr} (hf : (Opcode.family op).toNat = 0xE)
    (h : decodeFamilyE op = .ok i) : encode i = op := by
  unfold decodeFamilyE at h
  split at h <;> cases h
  all_goals exact wordXNN_of_fields hf ‹_›

theorem encode_of_decodeFamilyF {op : Word} {i : Instr} (hf : (Opcode.family op).toNat = 0xF)
    (h : decodeFamilyF op = .ok i) : encode i = op := by
  unfold decodeFamilyF at h
  split at h <;> cases h
  all_goals exact wordXNN_of_fields hf ‹_›

/-- R93: a legal word is made of its family, the suffix that selected its instruction, and the operands it was decoded
to. -/
theorem encode_of_decodeWord {op : Word} {i : Instr} (h : decodeWord op = .ok i) : encode i = op := by
  unfold decodeWord at h
  split at h
  next hf => exact encode_of_decodeFamily0 hf h
  next hf => cases h; exact wordNNN_of_fields hf rfl
  next hf => cases h; exact wordNNN_of_fields hf rfl
  next hf => cases h; exact wordXNN_of_fields hf rfl
  next hf => cases h; exact wordXNN_of_fields hf rfl
  next hf => exact encode_of_decodeSuffixZero (f := 0x5) (fun _ _ => rfl) hf h
  next hf => cases h; exact wordXNN_of_fields hf rfl
  next hf => cases h; exact wordXNN_of_fields hf rfl
  next hf => exact encode_of_decodeFamily8 hf h
  next hf => exact encode_of_decodeSuffixZero (f := 0x9) (fun _ _ => rfl) hf h
  next hf => cases h; exact wordNNN_of_fields hf rfl
  next hf => cases h; exact wordNNN_of_fields hf rfl
  next hf => cases h; exact wordXNN_of_fields hf rfl
  next hf => cases h; exact wordXYN_of_fields hf rfl
  next hf => exact encode_of_decodeFamilyE hf h
  next hf => exact encode_of_decodeFamilyF hf h
  next => cases h

/-- Settles O3: family by family, the word is rebuilt from the fields that were decoded. -/
theorem decodedWordIsItsInstructionsEncoding : Obligations.DecodedWordIsItsInstructionsEncoding :=
  fun _ _ h => encode_of_decodeWord h

/-! ## The rows of R94 -/

/-- R94: the word of every instruction belongs to the instruction's row, which the map lists. -/
theorem inItsRow (i : Instr) : Laws.InItsRow.Statement i := by
  cases i with
  | cls => exact Laws.InItsRow.cls
  | ret => exact Laws.InItsRow.ret
  | jp nnn => exact Laws.InItsRow.jp nnn
  | call nnn => exact Laws.InItsRow.call nnn
  | seImm x nn => exact Laws.InItsRow.seImm x nn
  | sneImm x nn => exact Laws.InItsRow.sneImm x nn
  | seReg x y => exact Laws.InItsRow.seReg x y
  | ldImm x nn => exact Laws.InItsRow.ldImm x nn
  | addImm x nn => exact Laws.InItsRow.addImm x nn
  | ldReg x y => exact Laws.InItsRow.ldReg x y
  | orReg x y => exact Laws.InItsRow.orReg x y
  | andReg x y => exact Laws.InItsRow.andReg x y
  | xorReg x y => exact Laws.InItsRow.xorReg x y
  | addReg x y => exact Laws.InItsRow.addReg x y
  | subReg x y => exact Laws.InItsRow.subReg x y
  | shr x y => exact Laws.InItsRow.shr x y
  | subnReg x y => exact Laws.InItsRow.subnReg x y
  | shl x y => exact Laws.InItsRow.shl x y
  | sneReg x y => exact Laws.InItsRow.sneReg x y
  | ldI nnn => exact Laws.InItsRow.ldI nnn
  | jpV0 nnn => exact Laws.InItsRow.jpV0 nnn
  | rnd x nn => exact Laws.InItsRow.rnd x nn
  | drw x y n => exact Laws.InItsRow.drw x y n
  | skp x => exact Laws.InItsRow.skp x
  | sknp x => exact Laws.InItsRow.sknp x
  | ldVxDt x => exact Laws.InItsRow.ldVxDt x
  | ldVxK x => exact Laws.InItsRow.ldVxK x
  | ldDtVx x => exact Laws.InItsRow.ldDtVx x
  | ldStVx x => exact Laws.InItsRow.ldStVx x
  | addI x => exact Laws.InItsRow.addI x
  | ldF x => exact Laws.InItsRow.ldF x
  | ldB x => exact Laws.InItsRow.ldB x
  | stRegs x => exact Laws.InItsRow.stRegs x
  | ldRegs x => exact Laws.InItsRow.ldRegs x

/-- R94: a legal word belongs to the row of the instruction it decodes to. -/
theorem row_of_decodeWord {op : Word} {i : Instr} (h : decodeWord op = .ok i) :
    i.row ∈ opcodeMap ∧ op &&& i.row.mask = i.row.pattern := by
  obtain ⟨hsel, hmem⟩ := inItsRow i
  rw [OpcodeRow.selects, encode_of_decodeWord h, beq_iff_eq] at hsel
  exact ⟨hmem, hsel⟩

/-- A row that fixes the family alone. -/
theorem family_of_and_F000 {op : Word} {f : Nibble} (h : op &&& 0xF000 = wordNNN f 0) :
    (Opcode.family op).toNat = f.toNat := by
  have hmask := Laws.InItsRow.and_F000 (Opcode.family op) (Opcode.nnn op)
  rw [wordNNN_fields, h] at hmask
  have hf : Opcode.family op = f := by simpa using congrArg Opcode.family hmask.symm
  rw [hf]

/-- A row that fixes the family and NN. -/
theorem wordXNN_of_and_F0FF {op : Word} {f : Nibble} {nn : Byte} (h : op &&& 0xF0FF = wordXNN f 0 nn) :
    wordXNN f (Opcode.x op) nn = op := by
  have hmask := Laws.InItsRow.xnn_and_F0FF (Opcode.family op) (Opcode.x op) (Opcode.nn op)
  rw [wordXNN_fields, h] at hmask
  have hf : Opcode.family op = f := by simpa using congrArg Opcode.family hmask.symm
  have hn : Opcode.nn op = nn := by simpa using congrArg Opcode.nn hmask.symm
  exact wordXNN_of_fields (by rw [hf]) (by rw [hn])

/-- A row that fixes the family and N. -/
theorem wordXYN_of_and_F00F {op : Word} {f n : Nibble} (h : op &&& 0xF00F = wordXYN f 0 0 n) :
    wordXYN f (Opcode.x op) (Opcode.y op) n = op := by
  have hmask := Laws.InItsRow.xyn_and_F00F (Opcode.family op) (Opcode.x op) (Opcode.y op) (Opcode.n op)
  rw [wordXYN_fields, h] at hmask
  have hf : Opcode.family op = f := by simpa using congrArg Opcode.family hmask.symm
  have hn : Opcode.n op = n := by simpa using congrArg Opcode.n hmask.symm
  exact wordXYN_of_fields (by rw [hf]) (by rw [hn])

/-- A row that fixes the whole word. -/
theorem eq_of_and_FFFF {op w : Word} (h : op &&& 0xFFFF = w) : w = op := by
  rw [← h]; exact BitVec.and_allOnes

/-- R94, row by row: a word that belongs to a row is the word of an instruction of that row. -/
theorem encode_of_row (op : Word) : ∀ r ∈ opcodeMap, op &&& r.mask = r.pattern → ∃ i, encode i = op ∧ i.row = r := by
  simp only [opcodeMap, opcodeRows1, opcodeRows2, opcodeRows3, List.cons_append, List.nil_append,
    List.forall_mem_cons]
  refine ⟨fun h => ⟨.cls, eq_of_and_FFFF h, rfl⟩,
    fun h => ⟨.ret, eq_of_and_FFFF h, rfl⟩,
    fun h => ⟨.jp (Opcode.nnn op), wordNNN_of_fields (family_of_and_F000 h) rfl, rfl⟩,
    fun h => ⟨.call (Opcode.nnn op), wordNNN_of_fields (family_of_and_F000 h) rfl, rfl⟩,
    fun h => ⟨.seImm (Opcode.x op) (Opcode.nn op), wordXNN_of_fields (family_of_and_F000 h) rfl, rfl⟩,
    fun h => ⟨.sneImm (Opcode.x op) (Opcode.nn op), wordXNN_of_fields (family_of_and_F000 h) rfl, rfl⟩,
    fun h => ⟨.seReg (Opcode.x op) (Opcode.y op), wordXYN_of_and_F00F h, rfl⟩,
    fun h => ⟨.ldImm (Opcode.x op) (Opcode.nn op), wordXNN_of_fields (family_of_and_F000 h) rfl, rfl⟩,
    fun h => ⟨.addImm (Opcode.x op) (Opcode.nn op), wordXNN_of_fields (family_of_and_F000 h) rfl, rfl⟩,
    fun h => ⟨.ldReg (Opcode.x op) (Opcode.y op), wordXYN_of_and_F00F h, rfl⟩,
    fun h => ⟨.orReg (Opcode.x op) (Opcode.y op), wordXYN_of_and_F00F h, rfl⟩,
    fun h => ⟨.andReg (Opcode.x op) (Opcode.y op), wordXYN_of_and_F00F h, rfl⟩,
    fun h => ⟨.xorReg (Opcode.x op) (Opcode.y op), wordXYN_of_and_F00F h, rfl⟩,
    fun h => ⟨.addReg (Opcode.x op) (Opcode.y op), wordXYN_of_and_F00F h, rfl⟩,
    fun h => ⟨.subReg (Opcode.x op) (Opcode.y op), wordXYN_of_and_F00F h, rfl⟩,
    fun h => ⟨.shr (Opcode.x op) (Opcode.y op), wordXYN_of_and_F00F h, rfl⟩,
    fun h => ⟨.subnReg (Opcode.x op) (Opcode.y op), wordXYN_of_and_F00F h, rfl⟩,
    fun h => ⟨.shl (Opcode.x op) (Opcode.y op), wordXYN_of_and_F00F h, rfl⟩,
    fun h => ⟨.sneReg (Opcode.x op) (Opcode.y op), wordXYN_of_and_F00F h, rfl⟩,
    fun h => ⟨.ldI (Opcode.nnn op), wordNNN_of_fields (family_of_and_F000 h) rfl, rfl⟩,
    fun h => ⟨.jpV0 (Opcode.nnn op), wordNNN_of_fields (family_of_and_F000 h) rfl, rfl⟩,
    fun h => ⟨.rnd (Opcode.x op) (Opcode.nn op), wordXNN_of_fields (family_of_and_F000 h) rfl, rfl⟩,
    fun h => ⟨.drw (Opcode.x op) (Opcode.y op) (Opcode.n op), wordXYN_of_fields (family_of_and_F000 h) rfl, rfl⟩,
    fun h => ⟨.skp (Opcode.x op), wordXNN_of_and_F0FF h, rfl⟩,
    fun h => ⟨.sknp (Opcode.x op), wordXNN_of_and_F0FF h, rfl⟩,
    fun h => ⟨.ldVxDt (Opcode.x op), wordXNN_of_and_F0FF h, rfl⟩,
    fun h => ⟨.ldVxK (Opcode.x op), wordXNN_of_and_F0FF h, rfl⟩,
    fun h => ⟨.ldDtVx (Opcode.x op), wordXNN_of_and_F0FF h, rfl⟩,
    fun h => ⟨.ldStVx (Opcode.x op), wordXNN_of_and_F0FF h, rfl⟩,
    fun h => ⟨.addI (Opcode.x op), wordXNN_of_and_F0FF h, rfl⟩,
    fun h => ⟨.ldF (Opcode.x op), wordXNN_of_and_F0FF h, rfl⟩,
    fun h => ⟨.ldB (Opcode.x op), wordXNN_of_and_F0FF h, rfl⟩,
    fun h => ⟨.stRegs (Opcode.x op), wordXNN_of_and_F0FF h, rfl⟩,
    fun h => ⟨.ldRegs (Opcode.x op), wordXNN_of_and_F0FF h, rfl⟩,
    fun r hr => absurd hr List.not_mem_nil⟩

/-- R94: a word that belongs to a row decodes to an instruction of that row. -/
theorem decodeWord_of_row {op : Word} {r : OpcodeRow} (hr : r ∈ opcodeMap) (h : op &&& r.mask = r.pattern) :
    ∃ i, decodeWord op = .ok i ∧ i.row = r := by
  obtain ⟨i, rfl, hrow⟩ := encode_of_row op r hr h
  exact ⟨i, decodeWord_encode i, hrow⟩

/-- R94, R99: a word is rejected exactly when it belongs to no row. -/
theorem decodeWord_error_iff (op : Word) :
    decodeWord op = .error (.unrecognizedSuffix op) ↔ ∀ r ∈ opcodeMap, op &&& r.mask ≠ r.pattern := by
  constructor
  · intro h r hr hsel
    obtain ⟨i, hi, -⟩ := decodeWord_of_row hr hsel
    rw [h] at hi
    cases hi
  · intro h
    cases hd : decodeWord op with
    | error e => rw [decodeWord_error hd]
    | ok i =>
      obtain ⟨hmem, hsel⟩ := row_of_decodeWord hd
      exact absurd hsel (h _ hmem)

/-- Settles O4: the rows are disjoint because the word decodes to one instruction, which has one row. -/
theorem opcodeSelectsItsOneRow : Obligations.OpcodeSelectsItsOneRow := by
  refine ⟨rfl, fun op r hr h => decodeWord_of_row hr h, fun op i h => row_of_decodeWord h, ?disjoint⟩
  case disjoint =>
    intro op r r' hr hr' h h'
    obtain ⟨i, hi, rfl⟩ := decodeWord_of_row hr h
    obtain ⟨j, hj, rfl⟩ := decodeWord_of_row hr' h'
    rw [hi] at hj
    cases hj
    rfl

/-! ## The table of illegal words (R99) -/

open Sys2Proof.Machine in
/-- The table of R99 in terms of the fields of R92. -/
theorem illegalWord_eq_false_iff (op : Word) : illegalWord op = false ↔
    ((Opcode.family op).toNat = 0x0 → (Opcode.nnn op).toNat = 0x0E0 ∨ (Opcode.nnn op).toNat = 0x0EE) ∧
    ((Opcode.family op).toNat = 0x5 ∨ (Opcode.family op).toNat = 0x9 → (Opcode.n op).toNat = 0) ∧
    ((Opcode.family op).toNat = 0x8 → (Opcode.n op).toNat ∈ [0x0, 0x1, 0x2, 0x3, 0x4, 0x5, 0x6, 0x7, 0xE]) ∧
    ((Opcode.family op).toNat = 0xE → (Opcode.nn op).toNat = 0x9E ∨ (Opcode.nn op).toNat = 0xA1) ∧
    ((Opcode.family op).toNat = 0xF →
      (Opcode.nn op).toNat ∈ [0x07, 0x0A, 0x15, 0x18, 0x1E, 0x29, 0x33, 0x55, 0x65]) := by
  simp only [Opcode.family_toNat, Opcode.n_toNat, Opcode.nn_toNat, Opcode.nnn_toNat, illegalWord, Bool.or_eq_false_iff,
    Bool.and_eq_false_iff, bne_eq_false_iff_eq, beq_eq_false_iff_ne, List.mem_cons, List.not_mem_nil, or_false,
    and_assoc]
  refine and_congr ?_ (and_congr ?_ (and_congr ?_ (and_congr ?_ ?_))) <;> omega

theorem isOk_ok (i : Instr) : (Except.ok i : Except DecodeError Instr).isOk = true := rfl
theorem isOk_error (e : DecodeError) : (Except.error e : Except DecodeError Instr).isOk = false := rfl

theorem decodeFamily0_isOk (op : Word) :
    (decodeFamily0 op).isOk = true ↔ (Opcode.nnn op).toNat = 0x0E0 ∨ (Opcode.nnn op).toNat = 0x0EE := by
  unfold decodeFamily0
  split <;> simp_all [isOk_ok, isOk_error]

theorem decodeSuffixZero_isOk (ins : Nibble → Nibble → Instr) (op : Word) :
    (decodeSuffixZero ins op).isOk = true ↔ (Opcode.n op).toNat = 0 := by
  unfold decodeSuffixZero
  split <;> simp_all [isOk_ok, isOk_error]

theorem decodeFamily8_isOk (op : Word) : (decodeFamily8 op).isOk = true ↔
    (Opcode.n op).toNat ∈ [0x0, 0x1, 0x2, 0x3, 0x4, 0x5, 0x6, 0x7, 0xE] := by
  unfold decodeFamily8
  split <;> simp_all [isOk_ok, isOk_error]

theorem decodeFamilyE_isOk (op : Word) :
    (decodeFamilyE op).isOk = true ↔ (Opcode.nn op).toNat = 0x9E ∨ (Opcode.nn op).toNat = 0xA1 := by
  unfold decodeFamilyE
  split <;> simp_all [isOk_ok, isOk_error]

theorem decodeFamilyF_isOk (op : Word) : (decodeFamilyF op).isOk = true ↔
    (Opcode.nn op).toNat ∈ [0x07, 0x0A, 0x15, 0x18, 0x1E, 0x29, 0x33, 0x55, 0x65] := by
  unfold decodeFamilyF
  split <;> simp_all [isOk_ok, isOk_error]

open Sys2Proof.Machine in
/-- R93, R99: in a family with a suffix the table lists the suffixes that select no instruction, in the others none. -/
theorem decodeWord_isOk (op : Word) : (decodeWord op).isOk = true ↔ illegalWord op = false := by
  rw [illegalWord_eq_false_iff]
  have hf := (Opcode.family op).isLt
  unfold decodeWord
  generalize (Opcode.family op).toNat = k at hf ⊢
  interval_cases k <;>
    simp [decodeFamily0_isOk, decodeSuffixZero_isOk, decodeFamily8_isOk, decodeFamilyE_isOk, decodeFamilyF_isOk,
      isOk_ok]

/-- Settles O5: a word that the table lists cannot decode, and a word that cannot decode is rejected as an
unrecognised suffix. -/
theorem illegalWordsAreThoseOfTheTable : Obligations.IllegalWordsAreThoseOfTheTable := by
  intro op
  have hok := decodeWord_isOk op
  cases hd : decodeWord op with
  | ok i =>
    rw [hd] at hok
    exact ⟨fun h => absurd (hok.1 rfl) (by simp [h]), fun _ => ⟨i, rfl⟩⟩
  | error e =>
    rw [hd] at hok
    exact ⟨fun _ => by rw [decodeWord_error hd], fun h => absurd (hok.2 h) (by simp [isOk_error])⟩

/-! ## The worked decodings (section 6) -/

theorem decodeWord_of_encode {op : Word} {i : Instr} (h : encode i = op) : decodeWord op = .ok i := by
  rw [← h, decodeWord_encode]

/-- Settles O1: each legal word is the word of its instruction, and each of the other three is in the table. -/
theorem wordsOfTheSpecDecode : Obligations.WordsOfTheSpecDecode := by
  have hbad := fun op => (illegalWordsAreThoseOfTheTable op).1
  refine ⟨⟨?_, ?_, ?_, ?_, ?_⟩, ⟨hbad _ rfl, hbad _ rfl, hbad _ rfl⟩,
    ?_, ?_, ?_, ?_, ?_, ?_, ?_, ?_, ?_, ?_, ?_⟩ <;>
  exact decodeWord_of_encode rfl

end Sys2Proof
end

section
/-! PROOF. What an instruction answers, said once for all 34: a fatal one sets the fault latch and nothing else, any
other commits its writes (spec/60_exceptions.md R256). From this: the fatal conditions, the parts an instruction may
write, how PC and VF change, the repaint flag, and what no instruction reads. -/

namespace Sys2Proof.Machine

/-! ## The writes of an instruction -/

/-- The state an instruction leaves when no fatal condition stops it: its writes, without its checks. -/
def State.commit (s : State) : Instr → State
  | .cls => { s with fb := Frame.blank }
  | .ret => { s with pc := s.stack.headD s.pc, stack := s.stack.tail }
  | .jp nnn => { s with pc := addrOperand nnn }
  | .call nnn => { s with pc := addrOperand nnn, stack := s.pc :: s.stack }
  | .seImm x nn => s.skipIf (s.reg x == nn)
  | .sneImm x nn => s.skipIf (s.reg x != nn)
  | .seReg x y => s.skipIf (s.reg x == s.reg y)
  | .sneReg x y => s.skipIf (s.reg x != s.reg y)
  | .ldImm x nn => s.setReg x nn
  | .addImm x nn => s.setReg x (sum8 (s.reg x) nn)
  | .ldReg x y => s.setReg x (s.reg y)
  | .orReg x y => s.setReg x (s.reg x ||| s.reg y)
  | .andReg x y => s.setReg x (s.reg x &&& s.reg y)
  | .xorReg x y => s.setReg x (s.reg x ^^^ s.reg y)
  | .addReg x y => s.setResultThenFlag x (sum8 (s.reg x) (s.reg y)) (carry (s.reg x) (s.reg y))
  | .subReg x y => s.setFlagThenResult x (diff8 (s.reg x) (s.reg y)) (noBorrow (s.reg x) (s.reg y))
  | .shr x y => s.setFlagThenResult x (shr8 (shiftSource s x y)) (shrOut (shiftSource s x y))
  | .subnReg x y => s.setFlagThenResult x (diff8 (s.reg y) (s.reg x)) (noBorrow (s.reg y) (s.reg x))
  | .shl x y => s.setFlagThenResult x (shl8 (shiftSource s x y)) (shlOut (shiftSource s x y))
  | .ldI nnn => { s with i := addrOperand nnn }
  | .jpV0 nnn => { s with pc := BitVec.ofNat 16 (offsetTarget s nnn) }
  | .rnd x nn => s.setReg x (s.rand &&& nn)
  | .drw x y n => { s.setReg vf (flagByte (drawSprite x y n s).collision) with fb := (drawSprite x y n s).fb }
  | .skp x => s.skipIf (s.key (BitVec.ofNat 4 (s.reg x).toNat) == true)
  | .sknp x => s.skipIf (s.key (BitVec.ofNat 4 (s.reg x).toNat) == false)
  | .ldVxDt x => s.setReg x s.dt
  | .ldVxK x => s.pickKey.elim s.rewind fun k => s.setReg x (k.setWidth 8)
  | .ldDtVx x => { s with dt := s.reg x }
  | .ldStVx x => { s with st := s.reg x }
  | .addI x => { s with i := wrap12 (s.i.toNat + (s.reg x).toNat) }
  | .ldF x => { s with i := glyphAddress (s.reg x) }
  | .ldB x => s.storeBlock (blockBase s) (bcdDigits (s.reg x))
  | .stRegs x =>
    { s.storeBlock (blockBase s) (s.firstRegs (regCount x)) with i := wrap12 (blockBase s + regCount x) }
  | .ldRegs x =>
    { s.setRegsFrom 0 (s.readBlock (blockBase s) (regCount x)) with i := wrap12 (blockBase s + regCount x) }

/-- The answer of an instruction: the fault latch set on its fatal condition, else its writes. -/
def State.answer (s : State) (i : Instr) : State :=
  match fatalCondition s i with
  | some (c, a) => s.raise c (BitVec.ofNat 16 a)
  | none => s.commit i

/-! The nine instructions that can be fatal check first. -/

/-- R190: the check of a block is the fatal condition of a block. -/
theorem blockFault_eq (s : State) (base n : Nat) :
    blockFault s.cfg.memSize base n = (s.blockOutOfRange base n).map fun a => (.addressOutOfRange, a) := by
  unfold blockFault
  split
  · next h => rw [State.blockOutOfRange_eq_none.2 h]; rfl
  · next h =>
    push Not at h
    rw [State.blockOutOfRange_eq_some.2 ⟨h, rfl⟩, Option.map_some]
    split
    · next hb => rw [Nat.max_eq_left hb]
    · next hb => rw [Nat.max_eq_right (by omega)]

theorem blockFault_eq_none {size base n : Nat} : blockFault size base n = none ↔ n = 0 ∨ base + n ≤ size := by
  unfold blockFault
  split <;> simp_all

theorem State.answer_of_none {s : State} {i : Instr} (h : fatalCondition s i = none) : s.answer i = s.commit i := by
  simp [State.answer, h]

theorem State.answer_of_some {s : State} {i : Instr} {c : FaultCause} {a : Nat}
    (h : fatalCondition s i = some (c, a)) : s.answer i = s.raise c (BitVec.ofNat 16 a) := by
  simp [State.answer, h]

theorem exec_ret_eq (s : State) : exec .ret s = .next (s.answer .ret) := by
  obtain ⟨hnil, hpop⟩ | ⟨w, rest, hcons, hpop⟩ := State.pop_cases s
  · simp [exec, execRet, hpop, State.answer, fatalCondition, State.sp, hnil]
  · simp [exec, execRet, hpop, State.answer, fatalCondition, State.sp, State.commit, hcons]

theorem exec_call_eq (nnn : Addr) (s : State) : exec (.call nnn) s = .next (s.answer (.call nnn)) := by
  obtain ⟨hfull, hpush⟩ | ⟨hroom, hpush⟩ := State.push_cases s s.pc
  · simp [exec, execCall, hpush, State.answer, fatalCondition, Nat.not_lt.2 hfull]
  · simp [exec, execCall, hpush, State.answer, fatalCondition, hroom, State.commit]

theorem exec_jpV0_eq (nnn : Addr) (s : State) : exec (.jpV0 nnn) s = .next (s.answer (.jpV0 nnn)) := by
  by_cases h : 0xFFF < offsetTarget s nnn
  · have hfatal : fatalCondition s (.jpV0 nnn) = some (.addressOutOfRange, offsetTarget s nnn) :=
      if_neg (Nat.not_le.2 h)
    rw [State.answer_of_some hfatal]
    exact if_pos h
  · have hfatal : fatalCondition s (.jpV0 nnn) = none := if_pos (Nat.not_lt.1 h)
    rw [State.answer_of_none hfatal]
    exact if_neg h

theorem exec_drw_eq (x y n : Nibble) (s : State) : exec (.drw x y n) s = .next (s.answer (.drw x y n)) := by
  simp only [exec, execDrw, State.answer, fatalCondition, blockFault_eq, blockBase]
  cases s.blockOutOfRange s.i.toNat n.toNat <;> rfl

theorem exec_ldB_eq (x : Nibble) (s : State) : exec (.ldB x) s = .next (s.answer (.ldB x)) := by
  simp only [exec, execLdB, State.answer, fatalCondition, blockFault_eq, blockBase]
  cases s.blockOutOfRange s.i.toNat 3 <;> rfl

theorem exec_stRegs_eq (x : Nibble) (s : State) : exec (.stRegs x) s = .next (s.answer (.stRegs x)) := by
  simp only [exec, execStRegs, State.answer, fatalCondition, blockFault_eq, blockBase, regCount]
  cases s.blockOutOfRange s.i.toNat (x.toNat + 1) <;> rfl

theorem exec_ldRegs_eq (x : Nibble) (s : State) : exec (.ldRegs x) s = .next (s.answer (.ldRegs x)) := by
  simp only [exec, execLdRegs, State.answer, fatalCondition, blockFault_eq, blockBase, regCount]
  cases s.blockOutOfRange s.i.toNat (x.toNat + 1) <;> rfl

/-- R230 to R232: both key skips, on the latch the register's value selects. -/
theorem skipOnKey_eq (x : Nibble) (down : Bool) (s : State) : skipOnKey x down s = .next
    (if (s.reg x).toNat ≤ 0xF then s.skipIf (s.key (BitVec.ofNat 4 (s.reg x).toNat) == down)
      else s.raise .keyIndexOutOfRange (BitVec.ofNat 16 (s.reg x).toNat)) := by
  by_cases h : (s.reg x).toNat ≤ 0xF
  · simp [skipOnKey, keyIndex, h]
  · simp [skipOnKey, keyIndex, h]

theorem exec_skp_eq (x : Nibble) (s : State) : exec (.skp x) s = .next (s.answer (.skp x)) := by
  rw [exec, execSkp, skipOnKey_eq, State.answer, fatalCondition]
  split <;> rfl

theorem exec_sknp_eq (x : Nibble) (s : State) : exec (.sknp x) s = .next (s.answer (.sknp x)) := by
  rw [exec, execSknp, skipOnKey_eq, State.answer, fatalCondition]
  split <;> rfl

theorem exec_ldVxK_eq (x : Nibble) (s : State) : exec (.ldVxK x) s = .next (s.answer (.ldVxK x)) := by
  simp only [exec, execLdVxK, State.answer, fatalCondition, State.commit]
  cases s.pickKey <;> rfl

/-- R123, R256: every instruction answers its fatal condition or its writes. -/
theorem exec_eq (i : Instr) (s : State) : exec i s = .next (s.answer i) := by
  cases i with
  | ret => exact exec_ret_eq s
  | call nnn => exact exec_call_eq nnn s
  | jpV0 nnn => exact exec_jpV0_eq nnn s
  | drw x y n => exact exec_drw_eq x y n s
  | ldB x => exact exec_ldB_eq x s
  | stRegs x => exact exec_stRegs_eq x s
  | ldRegs x => exact exec_ldRegs_eq x s
  | skp x => exact exec_skp_eq x s
  | sknp x => exact exec_sknp_eq x s
  | ldVxK x => exact exec_ldVxK_eq x s
  | cls | jp | seImm | sneImm | seReg | sneReg | ldImm | addImm | ldReg | orReg | andReg | xorReg | addReg | subReg
  | shr | subnReg | shl | ldI | rnd | ldVxDt | ldDtVx | ldStVx | addI | ldF => rfl

theorem exec_of_none {i : Instr} {s : State} (h : fatalCondition s i = none) : exec i s = .next (s.commit i) := by
  rw [exec_eq, State.answer_of_none h]

theorem exec_of_some {i : Instr} {s : State} {c : FaultCause} {a : Nat} (h : fatalCondition s i = some (c, a)) :
    exec i s = .next (s.raise c (BitVec.ofNat 16 a)) := by
  rw [exec_eq, State.answer_of_some h]

/-- Everything an instruction can answer. -/
theorem exec_cases {i : Instr} {s t : State} (h : exec i s = .next t) :
    (fatalCondition s i = none ∧ t = s.commit i) ∨
    (∃ c a, fatalCondition s i = some (c, a) ∧ t = s.raise c (BitVec.ofNat 16 a)) := by
  rw [exec_eq] at h
  cases h
  cases hf : fatalCondition s i with
  | none => exact .inl ⟨rfl, State.answer_of_none hf⟩
  | some ca => exact .inr ⟨ca.1, ca.2, rfl, State.answer_of_some hf⟩

theorem fatalCondition_ret_eq_none {s : State} : fatalCondition s .ret = none ↔ s.stack ≠ [] := by
  simp [fatalCondition, State.sp]

theorem fatalCondition_call_eq_none {s : State} {nnn : Addr} :
    fatalCondition s (.call nnn) = none ↔ s.sp < s.cfg.stackDepth := by
  simp [fatalCondition]

theorem fatalCondition_jpV0_eq_none {s : State} {nnn : Addr} :
    fatalCondition s (.jpV0 nnn) = none ↔ offsetTarget s nnn ≤ 0xFFF := by
  simp [fatalCondition, offsetTarget]

theorem blockFault_cause {size base n a : Nat} {c : FaultCause} (h : blockFault size base n = some (c, a)) :
    c = .addressOutOfRange := by
  unfold blockFault at h
  split at h <;> cases h
  rfl

/-- R251: the causes an instruction can raise are the last four. -/
theorem fatalCondition_cause {i : Instr} {s : State} {c : FaultCause} {a : Nat}
    (h : fatalCondition s i = some (c, a)) :
    c = .stackOverflow ∨ c = .stackUnderflow ∨ c = .addressOutOfRange ∨ c = .keyIndexOutOfRange := by
  cases i with
  | ret | call | jpV0 | skp | sknp =>
    simp only [fatalCondition] at h
    split at h <;> cases h
    simp
  | drw | ldB | stRegs | ldRegs => exact .inr (.inr (.inl (blockFault_cause h)))
  | cls | jp | seImm | sneImm | seReg | sneReg | ldImm | addImm | ldReg | orReg | andReg | xorReg | addReg | subReg
  | shr | subnReg | shl | ldI | rnd | ldVxDt | ldVxK | ldDtVx | ldStVx | addI | ldF => cases h

/-! ## The parts an instruction writes -/

/-- A skip writes PC. -/
theorem UnchangedBut.skipIf (s : State) (c : Bool) : UnchangedBut [.pc] s (s.skipIf c) := by
  rw [State.skipIf_eq]
  exact .withPc s _

/-- R169: the two registers of a result followed by its flag. -/
theorem UnchangedBut.setResultThenFlag (s : State) (x : Nibble) (r : Byte) (f : Bool) :
    UnchangedBut [.reg x, .reg 0xF] s (s.setResultThenFlag x r f) :=
  .setReg_setReg s x vf r (flagByte f)

/-- R169: the two registers of a flag followed by the result. -/
theorem UnchangedBut.setFlagThenResult (s : State) (x : Nibble) (r : Byte) (f : Bool) :
    UnchangedBut [.reg x, .reg 0xF] s (s.setFlagThenResult x r f) :=
  (UnchangedBut.setReg_setReg s vf x (flagByte f) r).mono (by simp [vf])

/-- A block of stores writes memory. -/
theorem UnchangedBut.storeBlock (s : State) (base : Nat) (bs : List Byte) :
    UnchangedBut [.mem] s (s.storeBlock base bs) :=
  .withMem s _

/-- The register file written as a whole, for registers that are the same in it. -/
theorem UnchangedBut.withV (s : State) {ps : List Part} {v : Vector Byte 16}
    (h : ∀ r, Part.reg r ∉ ps → ({ s with v := v } : State).reg r = s.reg r) :
    UnchangedBut ps s { s with v := v } := by
  constructor
  case reg => exact h
  case latch => exact fun _ => ⟨rfl, rfl, rfl⟩
  case bookkeeping => exact fun _ => ⟨rfl, rfl, rfl, rfl⟩
  all_goals intros; rfl

theorem reg_mem_regsUpTo {x r : Nibble} : Part.reg r ∈ regsUpTo x ↔ r.toNat ≤ x.toNat := by
  have hr := r.isLt
  simp only [regsUpTo, List.mem_map, List.mem_range, Part.reg.injEq]
  constructor
  · rintro ⟨k, hk, rfl⟩
    rw [BitVec.toNat_ofNat]
    omega
  · exact fun h => ⟨r.toNat, by omega, Nibble.ofNat_toNat r⟩

/-- R196: a register of the block `FX65` loads takes its byte, a higher one keeps its value. -/
theorem State.reg_loadBlock (s : State) (x r : Nibble) (base : Nat) :
    (s.setRegsFrom 0 (s.readBlock base (regCount x))).reg r =
      if r.toNat ≤ x.toNat then Memory.read s.cfg s.mem (base + r.toNat) else s.reg r := by
  have hx := x.isLt
  rw [State.reg_setRegsFrom s 0 _ (by rw [State.readBlock_length, regCount]; omega), State.readBlock_length, regCount]
  by_cases h : r.toNat ≤ x.toNat
  · rw [if_pos (by omega), if_pos h, Nat.sub_zero, State.readBlock_getD (by omega)]
  · rw [if_neg (by omega), if_neg h]

/-- R196: the registers V[0] to V[X] written. -/
theorem UnchangedBut.loadBlock (s : State) (x : Nibble) (base : Nat) :
    UnchangedBut (regsUpTo x) s (s.setRegsFrom 0 (s.readBlock base (regCount x))) := by
  rw [State.setRegsFrom_eq]
  refine .withV s fun r hr => ?_
  rw [reg_mem_regsUpTo] at hr
  rw [← State.setRegsFrom_eq, State.reg_loadBlock, if_neg hr]

/-- 10_state.md, "Written by": the writes of an instruction are to its own parts. -/
theorem commit_frame (i : Instr) (s : State) : UnchangedBut (mayWrite i) s (s.commit i) := by
  cases i with
  | cls => exact .withFb s _
  | ret => exact .withPcStack s _ _
  | call nnn => exact .withPcStack s _ _
  | jp nnn => exact .withPc s _
  | jpV0 nnn => exact .withPc s _
  | seImm | sneImm | seReg | sneReg | skp | sknp => exact .skipIf s _
  | ldImm | addImm | ldReg | orReg | andReg | xorReg | rnd | ldVxDt => exact .setReg s _ _
  | addReg x y => exact .setResultThenFlag s x _ _
  | subReg | shr | subnReg | shl => exact .setFlagThenResult s _ _ _
  | drw x y n =>
    exact ((UnchangedBut.setReg s vf _).mono (by simp [mayWrite, vf])).trans
      ((UnchangedBut.withFb _ _).mono (by simp [mayWrite]))
  | ldVxK x =>
    unfold State.commit
    cases s.pickKey with
    | none => exact (UnchangedBut.withPc s _).mono (by simp [mayWrite])
    | some k => exact (UnchangedBut.setReg s x _).mono (by simp [mayWrite])
  | ldDtVx x => exact .withDt s _
  | ldStVx x => exact .withSt s _
  | ldI | addI | ldF => exact .withIndex s _
  | ldB x => exact .storeBlock s _ _
  | stRegs x =>
    exact ((UnchangedBut.storeBlock s _ _).mono (by simp [mayWrite])).trans
      ((UnchangedBut.withIndex _ _).mono (by simp [mayWrite]))
  | ldRegs x =>
    exact ((UnchangedBut.loadBlock s x _).mono fun _ hp => List.mem_cons_of_mem _ hp).trans
      ((UnchangedBut.withIndex _ _).mono (by simp))

/-- No instruction's writes include the fault latch, the repaint flag, `running`, the key latches or the model's
bookkeeping. -/
theorem mayWrite_own_parts (i : Instr) : Part.latch ∉ mayWrite i ∧ Part.repaint ∉ mayWrite i ∧
    Part.running ∉ mayWrite i ∧ Part.keys ∉ mayWrite i ∧ Part.bookkeeping ∉ mayWrite i := by
  cases i <;> simp [mayWrite, regsUpTo]

/-- R37: the writes of an instruction leave the fault latch. -/
theorem commit_latch (i : Instr) (s : State) : (s.commit i).halted = s.halted ∧
    (s.commit i).faultCause = s.faultCause ∧ (s.commit i).faultInfo = s.faultInfo :=
  (commit_frame i s).latch (mayWrite_own_parts i).1

/-- R194, R195: the writes of an instruction leave every byte outside the stored ones. -/
theorem commit_memRead_outside (i : Instr) (s : State) {a : Nat}
    (h : a < blockBase s ∨ blockBase s + storedBytes i ≤ a) : (s.commit i).memRead a = s.memRead a := by
  cases i with
  | ldB x => exact State.memRead_storeBlock_outside s (bcdDigits (s.reg x)) h
  | stRegs x =>
    refine State.memRead_storeBlock_outside s (s.firstRegs (regCount x)) ?_
    rw [State.firstRegs_length]
    exact h
  | ldRegs x => exact (commit_frame (.ldRegs x) s).mem (by simp [mayWrite, regsUpTo]) a
  | cls | ret | jp | call | seImm | sneImm | seReg | ldImm | addImm | ldReg | orReg | andReg | xorReg | addReg | subReg
  | shr | subnReg | shl | sneReg | ldI | jpV0 | rnd | drw | skp | sknp | ldVxDt | ldVxK | ldDtVx | ldStVx | addI
  | ldF => exact (commit_frame _ s).mem (by simp [mayWrite]) a

/-- Fatal or not, an instruction changes its own parts and the fault latch at most. -/
theorem exec_frame {i : Instr} {s t : State} (h : exec i s = .next t) : UnchangedBut (.latch :: mayWrite i) s t := by
  obtain ⟨-, rfl⟩ | ⟨c, a, -, rfl⟩ := exec_cases h
  · exact (commit_frame i s).mono fun _ hp => List.mem_cons_of_mem _ hp
  · exact (UnchangedBut.raise s c _).mono (by simp)

/-- An instruction that halts the machine has another cause than an unrecognised suffix: only a word can have that. -/
theorem exec_cause_ne_unrecognizedSuffix {i : Instr} {s t : State} (h : exec i s = .next t) (hs : s.halted = false)
    (ht : t.halted = true) : t.faultCause ≠ .unrecognizedSuffix := by
  obtain ⟨-, rfl⟩ | ⟨c, a, hsome, rfl⟩ := exec_cases h
  · rw [(commit_latch i s).1, hs] at ht
    cases ht
  · show c ≠ _
    obtain rfl | rfl | rfl | rfl := fatalCondition_cause hsome <;> decide

/-- An instruction that answers a state which is not halted has committed its writes. -/
theorem eq_commit_of_not_halted {i : Instr} {s t : State} (h : exec i s = .next t) (ht : t.halted = false) :
    t = s.commit i := by
  obtain ⟨-, hcommit⟩ | ⟨c, a, -, rfl⟩ := exec_cases h
  · exact hcommit
  · cases ht

/-- Settles O15: an instruction that is not fatal has committed its writes, which are to its own parts and bytes. -/
theorem instructionsWriteOnlyTheirParts : Obligations.InstructionsWriteOnlyTheirParts := by
  intro i s t h ht
  rw [eq_commit_of_not_halted h ht]
  exact ⟨commit_frame i s, fun a ha => commit_memRead_outside i s ha⟩

/-- Settles O18: with no fatal condition the latch is not written, with one nothing else is. -/
theorem fatalConditionsAreTheListedOnesAndCommitNothing :
    Obligations.FatalConditionsAreTheListedOnesAndCommitNothing := by
  intro i s hs
  refine ⟨_, exec_eq i s, fun hnone => ?commits, fun c a hsome => ?fatal⟩
  case commits =>
    rw [State.answer_of_none hnone]
    exact (commit_latch i s).1.trans hs
  case fatal =>
    rw [State.answer_of_some hsome]
    exact ⟨rfl, rfl, BitVec.toNat_ofNat a 16, .raise s c _⟩

/-! ## The program counter (R24) -/

/-- R140: a skip leaves PC or advances it by 2 more. -/
theorem State.skipIf_pc_cases (s : State) (c : Bool) :
    (s.skipIf c).pc = s.pc ∨ (s.skipIf c).pc.toNat = (s.pc.toNat + 2) % 0x1000 := by
  cases c with
  | false => exact .inl rfl
  | true => exact .inr (wrap12_toNat _)

/-- `FX0A` repeats exactly when no key is pressed. -/
theorem State.pickKey_eq_none_iff (s : State) : s.pickKey = none ↔ ∀ k, s.key k = false := by
  rw [State.pickKey_eq_none, List.eq_nil_iff_forall_not_mem]
  simp only [State.mem_pressedKeys, Bool.not_eq_true]

/-- The six conditional skips, in the words of 10_state.md section 4. -/
def IsSkip (i : Instr) : Prop :=
  ∃ x y nn, i = .seImm x nn ∨ i = .sneImm x nn ∨ i = .seReg x y ∨ i = .sneReg x y ∨ i = .skp x ∨ i = .sknp x

/-- R24: an instruction whose writes are those of a skip changes PC in one of the first two ways. -/
theorem pc_of_skip {i : Instr} {s : State} {c : Bool} {others : Prop} (hi : IsSkip i) (h : s.commit i = s.skipIf c) :
    (s.commit i).pc = s.pc ∨ ((s.commit i).pc.toNat = (s.pc.toNat + 2) % 0x1000 ∧ IsSkip i) ∨ others := by
  rw [h]
  exact (s.skipIf_pc_cases c).imp_right fun hpc => .inl ⟨hpc, hi⟩

/-- Settles O17: a fatal instruction leaves PC, and of the others only the jumps, the call, the return, the skips and
the wait for a key write it. -/
theorem pcChangesOnlyInTheListedWays : Obligations.PcChangesOnlyInTheListedWays := by
  intro i s t h
  obtain ⟨hnone, rfl⟩ | ⟨c, a, -, rfl⟩ := exec_cases h
  case inr => exact .inl rfl
  cases i with
  | seImm x nn => exact pc_of_skip ⟨x, 0, nn, by simp⟩ rfl
  | sneImm x nn => exact pc_of_skip ⟨x, 0, nn, by simp⟩ rfl
  | seReg x y => exact pc_of_skip ⟨x, y, 0, by simp⟩ rfl
  | sneReg x y => exact pc_of_skip ⟨x, y, 0, by simp⟩ rfl
  | skp x => exact pc_of_skip ⟨x, 0, 0, by simp⟩ rfl
  | sknp x => exact pc_of_skip ⟨x, 0, 0, by simp⟩ rfl
  | jp nnn => exact .inr (.inr (.inl ⟨nnn, addrOperand_toNat nnn, .inl rfl⟩))
  | call nnn => exact .inr (.inr (.inl ⟨nnn, addrOperand_toNat nnn, .inr rfl⟩))
  | jpV0 nnn =>
    have hle := fatalCondition_jpV0_eq_none.1 hnone
    have hpc : (s.commit (.jpV0 nnn)).pc.toNat = offsetTarget s nnn :=
      (BitVec.toNat_ofNat _ 16).trans (Nat.mod_eq_of_lt (by omega))
    exact .inr (.inr (.inr (.inl ⟨nnn, hpc, hpc.trans_le hle, rfl⟩)))
  | ret =>
    cases hstack : s.stack with
    | nil => exact absurd hstack (fatalCondition_ret_eq_none.1 hnone)
    | cons w rest =>
      exact .inr (.inr (.inr (.inr (.inl ⟨w, rest, rfl, by simp [State.commit, hstack], rfl⟩))))
  | ldVxK x =>
    cases hpick : s.pickKey with
    | some k => exact .inl (by simp [State.commit, hpick])
    | none =>
      refine .inr (.inr (.inr (.inr (.inr ⟨?_, x, rfl, (State.pickKey_eq_none_iff s).1 hpick⟩))))
      rw [State.commit, hpick]
      exact wrap12_toNat _
  | cls | ldImm | addImm | ldReg | orReg | andReg | xorReg | addReg | subReg | shr | subnReg | shl | ldI | rnd | drw
  | ldVxDt | ldDtVx | ldStVx | addI | ldF | ldB | stRegs | ldRegs =>
    exact .inl ((commit_frame _ s).pc (by simp [mayWrite, regsUpTo]))

/-! ## The flag register (R21) -/

theorem flagByte_zero_or_one (b : Bool) : flagByte b = 0 ∨ flagByte b = 1 := by
  cases b with
  | false => exact .inl rfl
  | true => exact .inr rfl

/-- R169: the flag written last is what VF holds. -/
@[simp] theorem State.vf_setResultThenFlag (s : State) (x : Nibble) (r : Byte) (f : Bool) :
    (s.setResultThenFlag x r f).reg 0xF = flagByte f :=
  State.reg_setReg_same _ vf _

/-- R169: the flag written first is what VF holds, unless the result goes to VF. -/
theorem State.vf_setFlagThenResult (s : State) {x : Nibble} (hx : x ≠ 0xF) (r : Byte) (f : Bool) :
    (s.setFlagThenResult x r f).reg 0xF = flagByte f :=
  (State.reg_setReg_of_ne _ r hx.symm).trans (State.reg_setReg_same s vf _)

/-- R213: what VF holds after a drawing. -/
theorem vf_commit_drw (x y n : Nibble) (s : State) :
    (s.commit (.drw x y n)).reg 0xF = flagByte (drawSprite x y n s).collision :=
  State.reg_setReg_same s vf _

/-- Settles O16: the six leave a flag in VF, and an instruction without VF among its parts leaves VF, fatal or not. -/
theorem flagRegisterHoldsZeroOrOne : Obligations.FlagRegisterHoldsZeroOrOne := by
  intro s t x y n
  refine ⟨?add, ?draw, ?flagFirst, ?others⟩
  case add =>
    intro h
    cases h
    rw [State.vf_setResultThenFlag]
    exact flagByte_zero_or_one _
  case draw =>
    intro h ht
    rw [eq_commit_of_not_halted h ht, vf_commit_drw]
    exact flagByte_zero_or_one _
  case flagFirst =>
    intro hx i hi h
    have hflag : ∃ r f, exec i s = .next (s.setFlagThenResult x r f) := by
      simp only [List.mem_cons, List.not_mem_nil, or_false] at hi
      obtain rfl | rfl | rfl | rfl := hi <;> exact ⟨_, _, rfl⟩
    obtain ⟨r, f, hexec⟩ := hflag
    rw [hexec] at h
    cases h
    rw [State.vf_setFlagThenResult s hx]
    exact flagByte_zero_or_one f
  case others =>
    intro i hi h
    exact (exec_frame h).reg 0xF (by simpa using hi)

/-! ## The repaint flag (R124) -/

/-- Instructions leave the repaint flag to the cycle. -/
theorem exec_requiresRepaint {i : Instr} {s t : State} (h : exec i s = .next t) :
    t.requiresRepaint = s.requiresRepaint :=
  (exec_frame h).repaint (by simp [mayWrite_own_parts i])

/-- The rule after the instruction writes nothing but the flag. -/
theorem afterExecute_frame (i : Instr) (s : State) : UnchangedBut [.repaint] s (afterExecute i s) := by
  obtain ⟨-, h⟩ | ⟨-, h⟩ := afterExecute_cases i s <;> rw [h]
  · exact .withRepaint s true
  · exact .refl _ s

/-- Settles O9: the instruction leaves the flag, and the rule after it sets the flag by the instruction's identity. -/
theorem repaintFlagIsSetByIdentity : Obligations.RepaintFlagIsSetByIdentity := by
  intro i s t _ hrun
  obtain ⟨u, hexec⟩ := exec_next i s
  rw [runInstr_of_exec hexec] at hrun
  cases hrun
  rw [← exec_requiresRepaint hexec, ← setsRepaint_iff]
  obtain ⟨⟨hset, hu⟩, hafter⟩ | ⟨hno, hafter⟩ := afterExecute_cases i u
  · simp [hafter, hset, hu]
  · rw [hafter, and_comm]
    simp [hno]

/-! ## What no instruction reads -/

/-- `s` with ST, `requires_repaint`, `running` and the draw changed. -/
def State.mapUnread (st : Byte → Byte) (rep run : Bool → Bool) (rand : Byte → Byte) (s : State) : State :=
  { s with st := st s.st, requiresRepaint := rep s.requiresRepaint, running := run s.running, rand := rand s.rand }

section mapUnread
variable (st : Byte → Byte) (rep run : Bool → Bool) (rand : Byte → Byte)

theorem fatalCondition_mapUnread (i : Instr) (s : State) :
    fatalCondition (s.mapUnread st rep run rand) i = fatalCondition s i := by
  cases i <;> rfl

theorem State.skipIf_mapUnread (s : State) (c : Bool) :
    (s.mapUnread st rep run rand).skipIf c = (s.skipIf c).mapUnread st rep run rand := by
  cases c <;> rfl

theorem State.setRegsFrom_mapUnread (s : State) (k : Nat) (bs : List Byte) :
    (s.mapUnread st rep run rand).setRegsFrom k bs = (s.setRegsFrom k bs).mapUnread st rep run rand := by
  induction bs generalizing s k with
  | nil => rfl
  | cons _ _ ih => exact ih (s.setReg _ _) (k + 1)

/-- The writes of an instruction carry the change through, when the instruction does not overwrite ST and, if the draw
is changed, does not read it. -/
theorem commit_mapUnread {i : Instr} (hst : ∀ x, i ≠ .ldStVx x) (hrand : (∀ x nn, i ≠ .rnd x nn) ∨ rand = id)
    (s : State) : (s.mapUnread st rep run rand).commit i = (s.commit i).mapUnread st rep run rand := by
  cases i with
  | ldStVx x => exact absurd rfl (hst x)
  | rnd x nn =>
    obtain hne | rfl := hrand
    · exact absurd rfl (hne x nn)
    · rfl
  | seImm | sneImm | seReg | sneReg | skp | sknp => exact State.skipIf_mapUnread st rep run rand s _
  | ldVxK x =>
    show s.pickKey.elim _ _ = State.mapUnread st rep run rand (s.pickKey.elim _ _)
    cases s.pickKey <;> rfl
  | ldRegs x =>
    show ({ State.setRegsFrom _ 0 _ with i := _ } : State) = _
    rw [State.setRegsFrom_mapUnread]
    rfl
  | cls | ret | jp | call | ldImm | addImm | ldReg | orReg | andReg | xorReg | addReg | subReg | shr | subnReg | shl
  | ldI | jpV0 | drw | ldVxDt | ldDtVx | addI | ldF | ldB | stRegs => rfl

end mapUnread

/-- An answer carries the change through, fatal or not. -/
theorem exec_mapUnread {i : Instr} {s t : State} (st : Byte → Byte) (rep run : Bool → Bool) (rand : Byte → Byte)
    (hst : ∀ x, i ≠ .ldStVx x) (hrand : (∀ x nn, i ≠ .rnd x nn) ∨ rand = id) (h : exec i s = .next t) :
    exec i (s.mapUnread st rep run rand) = .next (t.mapUnread st rep run rand) := by
  obtain ⟨hnone, rfl⟩ | ⟨c, a, hsome, rfl⟩ := exec_cases h
  · rw [← commit_mapUnread st rep run rand hst hrand]
    exact exec_of_none ((fatalCondition_mapUnread st rep run rand i s).trans hnone)
  · exact exec_of_some ((fatalCondition_mapUnread st rep run rand i s).trans hsome)

/-- ST, `requires_repaint` and `running` changed. -/
theorem UnchangedBut.mapUnread (st : Byte → Byte) (rep run : Bool → Bool) (s : State) :
    UnchangedBut [.st, .repaint, .running] s (s.mapUnread st rep run id) := by
  constructor
  case st | repaint | running => simp
  case latch => exact fun _ => ⟨rfl, rfl, rfl⟩
  case bookkeeping => exact fun _ => ⟨rfl, rfl, rfl, rfl⟩
  all_goals intros; rfl

/-- Settles O22: a change of the three beforehand is carried through; `FX18` overwrites the changed ST, with the same
register either way. -/
theorem outputsAreNeverReadByInstructions : Obligations.OutputsAreNeverReadByInstructions := by
  intro i s t st rep run h
  by_cases hst : ∀ x, i ≠ .ldStVx x
  · exact ⟨_, exec_mapUnread (fun _ => st) (fun _ => rep) (fun _ => run) id hst (.inr rfl) h,
      .mapUnread _ _ _ t, rfl, rfl⟩
  · push Not at hst
    obtain ⟨x, rfl⟩ := hst
    cases h
    exact ⟨_, rfl, .mapUnread id (fun _ => rep) (fun _ => run) _, rfl, rfl⟩

/-- Settles O23: a change of the draw beforehand is carried through. -/
theorem onlyRandomReadsTheDraw : Obligations.OnlyRandomReadsTheDraw := by
  intro i s t rand hi h
  by_cases hst : ∀ x, i ≠ .ldStVx x
  · exact ⟨_, exec_mapUnread id id id (fun _ => rand) hst (.inl hi) h,
      rfl, rfl, rfl, rfl, .withBookkeeping t _ _ _ _⟩
  · push Not at hst
    obtain ⟨x, rfl⟩ := hst
    cases h
    exact ⟨_, rfl, rfl, rfl, rfl, rfl, .withBookkeeping _ _ _ _ _⟩

end Sys2Proof.Machine
end

section
/-! PROOF. The machine invariant: reset meets it (spec/10_state.md section 12) and every step keeps it, because the
writes of an instruction and every event of the host do. -/

namespace Sys2Proof.Machine

variable {s t : State}

/-! ## Reset and the changes the invariant does not see -/

theorem State.inv_resetWith {c : Config} (hc : c.wellFormed = true) : (State.resetWith c).Inv where
  cfg := hc
  pc := show 0x200 ≤ 0xFFF by decide
  index := Nat.zero_le _
  depth := Nat.zero_le _
  entries w hw := absurd hw List.not_mem_nil
  mem := State.resetWith_wf c
  latchClear _ := ⟨rfl, rfl⟩
  latchSet h := nomatch h
  latchStarted h := nomatch h
  noHandler h := nomatch h

theorem Config.default_wellFormed : Config.default.wellFormed = true := by decide

/-- Settles O13: nothing is listed in the memory or the stack of a reset state, and its latch is clear. -/
theorem resetStateMeetsTheInvariant : Obligations.ResetStateMeetsTheInvariant :=
  ⟨fun _ hc => State.inv_resetWith hc, State.inv_resetWith Config.default_wellFormed⟩

/-- The invariant after a change of parts it does not name, and of the others within their bounds. -/
theorem State.Inv.of_bounds (hs : s.Inv) (hcfg : t.cfg = s.cfg) (hpc : t.pc.toNat ≤ 0xFFF) (hi : t.i.toNat ≤ 0xFFF)
    (hstack : t.sp ≤ s.cfg.stackDepth ∧ ∀ w ∈ t.stack, w.toNat ≤ 0xFFF) (hmem : Memory.wf s.cfg t.mem = true)
    (hlatch : t.halted = s.halted ∧ t.faultCause = s.faultCause ∧ t.faultInfo = s.faultInfo)
    (hstarted : s.started = true → t.started = true) : t.Inv := by
  obtain ⟨hhalted, hcause, hinfo⟩ := hlatch
  exact {
    cfg := hcfg ▸ hs.cfg
    pc := hpc
    index := hi
    depth := hcfg ▸ hstack.1
    entries := hstack.2
    mem := hcfg ▸ hmem
    latchClear := by rw [hhalted, hcause, hinfo]; exact hs.latchClear
    latchSet := by rw [hhalted, hcause]; exact hs.latchSet
    latchStarted := fun h => hstarted (hs.latchStarted (hhalted ▸ h))
    noHandler := by rw [hcause]; exact hs.noHandler }

/-- The clauses on the stack, for a stack that is the same. -/
theorem State.Inv.stack_ok (hs : s.Inv) (h : t.stack = s.stack) :
    t.sp ≤ s.cfg.stackDepth ∧ ∀ w ∈ t.stack, w.toNat ≤ 0xFFF := by
  rw [State.sp, h]
  exact ⟨hs.depth, hs.entries⟩

/-- The invariant names neither the registers, timers, latches and pixels nor the host's script and draws. -/
theorem State.Inv.of_same (hs : s.Inv) (hcfg : t.cfg = s.cfg) (hpc : t.pc = s.pc) (hi : t.i = s.i)
    (hstack : t.stack = s.stack) (hmem : t.mem = s.mem)
    (hlatch : t.halted = s.halted ∧ t.faultCause = s.faultCause ∧ t.faultInfo = s.faultInfo)
    (hstarted : s.started = true → t.started = true) : t.Inv :=
  hs.of_bounds hcfg (hpc ▸ hs.pc) (hi ▸ hs.index) (hs.stack_ok hstack)
    (hmem ▸ hs.mem) hlatch hstarted

/-! ## Instructions -/

/-- R24: every way an instruction changes PC stays within 12 bits. -/
theorem commit_pc_le (hs : s.Inv) {i : Instr} (h : fatalCondition s i = none) : (s.commit i).pc.toNat ≤ 0xFFF := by
  obtain hsame | ⟨hskip, -⟩ | ⟨nnn, hjump, -⟩ | ⟨nnn, -, hle, -⟩ | ⟨w, rest, hstack, hret, -⟩ | ⟨hrewind, -⟩ :=
    pcChangesOnlyInTheListedWays i s _ (exec_of_none h)
  · rw [hsame]; exact hs.pc
  · rw [hskip]; omega
  · rw [hjump]; have := nnn.isLt; omega
  · exact hle
  · rw [hret]; exact hs.entries w (by simp [hstack])
  · rw [hrewind]; omega

/-- R22: I is loaded with 12 bits, wrapped to them, or pointed into the font. -/
theorem commit_index_le (hs : s.Inv) (i : Instr) : (s.commit i).i.toNat ≤ 0xFFF := by
  cases i with
  | ldI nnn =>
    have hi : (s.commit (.ldI nnn)).i.toNat = nnn.toNat := addrOperand_toNat nnn
    have := nnn.isLt
    omega
  | ldF x =>
    have hi : (s.commit (.ldF x)).i.toNat = 0x50 + 5 * (s.reg x).toNat := glyphAddress_toNat (s.reg x)
    have := (s.reg x).isLt
    omega
  | addI | stRegs | ldRegs => exact wrap12_le _
  | cls | ret | jp | call | seImm | sneImm | seReg | ldImm | addImm | ldReg | orReg | andReg | xorReg | addReg | subReg
  | shr | subnReg | shl | sneReg | jpV0 | rnd | drw | skp | sknp | ldVxDt | ldVxK | ldDtVx | ldStVx | ldB =>
    rw [(commit_frame _ s).index (by simp [mayWrite])]
    exact hs.index

/-- R25: a call pushes PC where there is room, a return pops, nothing else writes the stack. -/
theorem commit_stack_ok (hs : s.Inv) {i : Instr} (h : fatalCondition s i = none) :
    (s.commit i).sp ≤ s.cfg.stackDepth ∧ ∀ w ∈ (s.commit i).stack, w.toNat ≤ 0xFFF := by
  cases i with
  | call nnn =>
    refine ⟨fatalCondition_call_eq_none.1 h, fun w hw => ?_⟩
    obtain rfl | hw := List.mem_cons.1 hw
    · exact hs.pc
    · exact hs.entries w hw
  | ret =>
    refine ⟨?_, fun w hw => hs.entries w (List.mem_of_mem_tail hw)⟩
    calc (s.commit .ret).sp = s.sp - 1 := List.length_tail
      _ ≤ s.cfg.stackDepth := Nat.le_trans (Nat.sub_le _ _) hs.depth
  | cls | jp | seImm | sneImm | seReg | ldImm | addImm | ldReg | orReg | andReg | xorReg | addReg | subReg | shr
  | subnReg | shl | sneReg | ldI | jpV0 | rnd | drw | skp | sknp | ldVxDt | ldVxK | ldDtVx | ldStVx | addI | ldF | ldB
  | stRegs | ldRegs =>
    exact hs.stack_ok ((commit_frame _ s).stack (by simp [mayWrite, regsUpTo]))

/-- R28: the two instructions that store check their block first. -/
theorem commit_mem_wf (hs : s.Inv) {i : Instr} (h : fatalCondition s i = none) :
    Memory.wf s.cfg (s.commit i).mem = true := by
  cases i with
  | ldB x =>
    have hroom := (blockFault_eq_none.1 h).resolve_left (by decide)
    exact Memory.wf_writeBlock _ hs.mem hroom
  | stRegs x =>
    have hroom := (blockFault_eq_none.1 h).resolve_left (Nat.succ_ne_zero _)
    exact Memory.wf_writeBlock _ hs.mem (by rw [State.firstRegs_length]; exact hroom)
  | seImm | sneImm | seReg | sneReg | skp | sknp =>
    rw [State.commit, State.skipIf_eq]
    exact hs.mem
  | ldVxK x =>
    rw [State.commit]
    cases s.pickKey <;> exact hs.mem
  | ldRegs x =>
    rw [State.commit, State.setRegsFrom_eq]
    exact hs.mem
  | cls | ret | jp | call | ldImm | addImm | ldReg | orReg | andReg | xorReg | addReg | subReg | shr | subnReg | shl
  | ldI | jpV0 | rnd | drw | ldVxDt | ldDtVx | ldStVx | addI | ldF => exact hs.mem

theorem State.Inv.commit (hs : s.Inv) {i : Instr} (h : fatalCondition s i = none) : (s.commit i).Inv := by
  have hframe := commit_frame i s
  have hstarted := (hframe.bookkeeping (by simp [mayWrite_own_parts i])).1
  exact hs.of_bounds hframe.cfg (commit_pc_le hs h) (commit_index_le hs i) (commit_stack_ok hs h) (commit_mem_wf hs h)
    (commit_latch i s) (fun hst => hstarted.trans hst)

/-- R256: a fatal condition keeps the invariant, once a cycle has begun. -/
theorem State.Inv.raise (hs : s.Inv) (hstarted : s.started = true) {c : FaultCause} (hnone : c ≠ .none)
    (hhandler : c ≠ .noHandler) (w : Word) : (s.raise c w).Inv where
  cfg := hs.cfg
  pc := hs.pc
  index := hs.index
  depth := hs.depth
  entries := hs.entries
  mem := hs.mem
  latchClear h := nomatch h
  latchSet _ := hnone
  latchStarted _ := hstarted
  noHandler := hhandler

theorem State.Inv.exec (hs : s.Inv) (hstarted : s.started = true) {i : Instr} (h : Machine.exec i s = .next t) :
    t.Inv := by
  obtain ⟨hnone, rfl⟩ | ⟨c, a, hsome, rfl⟩ := exec_cases h
  · exact hs.commit hnone
  · obtain rfl | rfl | rfl | rfl := fatalCondition_cause hsome <;> exact hs.raise hstarted (by decide) (by decide) _

/-! ## Cycles and events -/

theorem State.Inv.beginCycle (hs : s.Inv) (rand : Byte) : (s.beginCycle rand).Inv :=
  hs.of_same rfl rfl rfl rfl rfl ⟨rfl, rfl, rfl⟩ fun _ => rfl

theorem State.Inv.advance (hs : s.Inv) : s.advance.Inv :=
  hs.of_bounds rfl (wrap12_le _) hs.index (hs.stack_ok rfl) hs.mem ⟨rfl, rfl, rfl⟩ id

theorem State.Inv.afterExecute (hs : s.Inv) (i : Instr) : (afterExecute i s).Inv := by
  obtain ⟨-, h⟩ | ⟨-, h⟩ := afterExecute_cases i s <;> rw [h]
  · exact hs.of_same rfl rfl rfl rfl rfl ⟨rfl, rfl, rfl⟩ id
  · exact hs

theorem State.Inv.cycle (hs : s.Inv) {rand : Byte} (h : cycle rand s = .next t) : t.Inv := by
  have hbegin := hs.beginCycle rand
  obtain ⟨-, hc⟩ | ⟨-, ⟨a, -, hc⟩ | ⟨hi, lo, -, ⟨-, hc⟩ | ⟨i, u, -, hexec, hc⟩⟩⟩ := cycle_cases rand s <;>
    (rw [hc] at h; cases h)
  case inl => exact hs
  case inr.inl => exact hbegin.raise rfl (by decide) (by decide) _
  case inr.inr.inl => exact hbegin.advance.raise rfl (by decide) (by decide) _
  case inr.inr.inr => exact (hbegin.advance.exec rfl hexec).afterExecute i

/-- R237: a tick writes the two timers at most. -/
theorem State.tick_eq (s : State) : s.tick = { s with dt := s.tick.dt, st := s.tick.st } := by
  unfold State.tick
  split <;> rfl

/-- A load that answers is inside its window and stores its byte. -/
theorem loadByte_next {k : Nat} {b : Byte} (h : loadByte k b s = .next t) :
    (s.started = false ∧ 0x200 + k < s.cfg.memSize) ∧
      t = { s with mem := Memory.write s.cfg s.mem (0x200 + k) b } := by
  obtain ⟨-, hl⟩ | ⟨hwindow, hl⟩ := loadByte_cases k b s <;> cases hl.symm.trans h
  exact ⟨hwindow, rfl⟩

theorem State.Inv.deliver (hs : s.Inv) {e : Event} (h : deliver e s = .next t) : t.Inv := by
  cases e with
  | reset =>
    cases h
    exact (State.inv_resetWith hs.cfg).of_same rfl rfl rfl rfl rfl ⟨rfl, rfl, rfl⟩ id
  | load k b =>
    obtain ⟨⟨-, hk⟩, rfl⟩ := loadByte_next h
    exact hs.of_bounds rfl hs.pc hs.index (hs.stack_ok rfl) (Memory.wf_write hs.mem hk) ⟨rfl, rfl, rfl⟩ id
  | cycle rand => exact hs.cycle h
  | tick =>
    cases h
    rw [State.tick_eq]
    exact hs.of_same rfl rfl rfl rfl rfl ⟨rfl, rfl, rfl⟩ id
  | setKey | clearRepaint | quit =>
    cases h
    exact hs.of_same rfl rfl rfl rfl rfl ⟨rfl, rfl, rfl⟩ id

/-- R9, R264: a step that answers is a cycle with a free draw, or the delivery of the script's first event. -/
theorem step_cases (h : step s = .next t) :
    (s.pending = [] ∧ cycle (Config.freeRand s.draws) s = .next t) ∨
    (∃ e rest, s.pending = e :: rest ∧ deliver e { s with pending := rest } = .next t) := by
  cases hp : s.pending with
  | nil => exact .inl ⟨rfl, (step_of_no_events hp).symm.trans h⟩
  | cons e rest => exact .inr ⟨e, rest, rfl, (step_of_event hp).symm.trans h⟩

/-- Settles O12: a cycle keeps the invariant, and so does every event of the host. -/
theorem everyStepKeepsTheInvariant : Obligations.EveryStepKeepsTheInvariant := by
  intro s t hs h
  obtain ⟨-, hcycle⟩ | ⟨e, rest, -, hdeliver⟩ := step_cases h
  · exact hs.cycle hcycle
  · have hscript : State.Inv { s with pending := rest } := hs.of_same rfl rfl rfl rfl rfl ⟨rfl, rfl, rfl⟩ id
    exact hscript.deliver hdeliver

end Sys2Proof.Machine
end

section
/-! PROOF. Cycles, steps and the events of the host (spec/40_cycle.md, spec/45_keypad_timers.md R237,
spec/60_exceptions.md, spec/70_reset_and_hazards.md): what each changes and what a halted machine keeps. -/

namespace Sys2Proof.Machine

variable {s t : State}

/-! ## The cycle -/

/-- A cycle from two bytes that decode runs the instruction from the post-advance state. -/
theorem cycle_of_decodeWord {i : Instr} {hi lo : Byte} (rand : Byte) (hs : s.halted = false)
    (hhi : s.memRead s.pc.toNat = some hi) (hlo : s.memRead (s.pc.toNat + 1) = some lo)
    (hd : decodeWord (Opcode.ofBytes hi lo) = .ok i) (hexec : exec i (s.beginCycle rand).advance = .next t) :
    cycle rand s = .next (afterExecute i t) := by
  simp [cycle, hs, State.fetch_of_memRead hhi hlo, runWord, hd, runInstr_of_exec hexec]

/-- The state in which the instruction of a cycle begins. -/
theorem UnchangedBut.beginCycle_advance (s : State) (rand : Byte) :
    UnchangedBut [.pc, .bookkeeping] s (s.beginCycle rand).advance :=
  ((UnchangedBut.withBookkeeping s true rand (s.draws + 1) s.pending).mono (by simp)).trans
    ((UnchangedBut.withPc _ _).mono (by simp))

/-- The host's script moved on. -/
theorem UnchangedBut.withPending (s : State) (rest : List Event) :
    UnchangedBut [.bookkeeping] s { s with pending := rest } :=
  .withBookkeeping s _ _ _ rest

theorem decodeWord_of_decode {hi lo : Byte} {i : Instr} (h : decode [hi, lo] = .ok (i, [])) :
    decodeWord (Opcode.ofBytes hi lo) = .ok i := by
  unfold decode at h
  cases hd : decodeWord (Opcode.ofBytes hi lo) <;> simp_all

/-- A step that is a cycle, with its draw, whether the script is empty or begins with a cycle. -/
theorem step_eq_cycle {rand : Byte} {rest : List Event}
    (h : (s.pending = [] ∧ rand = Config.freeRand s.draws ∧ rest = []) ∨ s.pending = .cycle rand :: rest) :
    step s = cycle rand { s with pending := rest } := by
  obtain ⟨hp, rfl, rfl⟩ | hp := h
  · rw [step_of_no_events hp, ← hp]
  · exact step_of_event hp

/-- Settles O6: a step that is a cycle fetches the two bytes and runs what they decode to. -/
theorem stepRunsTheDecodedInstruction : Obligations.StepRunsTheDecodedInstruction := by
  intro s i hi lo hs hhi hlo hd rand rest hscript
  obtain ⟨t, hexec⟩ := exec_next i (State.beginCycle { s with pending := rest } rand).advance
  refine ⟨_, wrap12_toNat _, rfl, rfl, ?frame, t, hexec, ?runs⟩
  case frame =>
    exact ((UnchangedBut.withPending s rest).mono (by simp)).trans (.beginCycle_advance _ rand)
  case runs =>
    rw [step_eq_cycle hscript]
    exact cycle_of_decodeWord rand hs hhi hlo (decodeWord_of_decode hd) hexec

/-- R3: the two sizes memory can have. -/
theorem memSize_of_wellFormed {c : Config} (h : c.wellFormed = true) : c.memSize = 4095 ∨ c.memSize = 4096 := by
  simp only [Config.wellFormed, Config.memSizeOk, Bool.and_eq_true, Bool.or_eq_true, beq_iff_eq] at h
  exact h.1.1

/-- R120: a failed fetch leaves everything but the latch, which gets the address that does not exist. -/
theorem cycle_of_fetch_outOfRange {a : Nat} (rand : Byte) (hs : s.halted = false) (hf : s.fetch = .outOfRange a)
    (ha : a < 0x10000) : ∃ t, cycle rand s = .next t ∧ t.halted = true ∧ t.faultCause = .addressOutOfRange ∧
      t.faultInfo.toNat = a ∧ UnchangedBut [.latch, .bookkeeping] s t := by
  refine ⟨(s.beginCycle rand).raiseAddress a, by simp [cycle, hs, hf], rfl, rfl, ?info, ?frame⟩
  case info => exact (BitVec.toNat_ofNat a 16).trans (Nat.mod_eq_of_lt ha)
  case frame =>
    exact ((UnchangedBut.withBookkeeping s true rand (s.draws + 1) s.pending).mono (by simp)).trans
      ((UnchangedBut.raise _ _ _).mono (by simp))

/-- Settles O7: a fetch has three cases, by where PC and PC + 1 stand to MEM_SIZE; from 0xFFF the first or the second
read fails for both sizes. -/
theorem fetchReadsTwoBytesOrHalts : Obligations.FetchReadsTwoBytesOrHalts := by
  intro s rand hs hcfg
  have hsize := memSize_of_wellFormed hcfg
  refine ⟨fun h => ?first, fun h => ?second, fun h => ?both, fun h => ?last⟩
  case first =>
    obtain ⟨-, hf⟩ | ⟨h', -⟩ | ⟨h', -⟩ := s.fetch_cases
    · exact cycle_of_fetch_outOfRange rand hs hf s.pc.isLt
    all_goals omega
  case second =>
    obtain ⟨h', -⟩ | ⟨-, hf⟩ | ⟨h', -⟩ := s.fetch_cases
    · omega
    · exact cycle_of_fetch_outOfRange rand hs hf (by omega)
    · omega
  case both =>
    have hhi : s.memRead s.pc.toNat = _ := State.memRead_of_lt (by omega)
    have hlo : s.memRead (s.pc.toNat + 1) = _ := State.memRead_of_lt h
    exact ⟨_, _, hhi, hlo, State.fetch_of_memRead hhi hlo, Opcode.ofBytes_toNat _ _⟩
  case last =>
    have hpc : s.pc.toNat = 0xFFF := by rw [h]; rfl
    have hf : ∃ a, s.fetch = .outOfRange a ∧ a < 0x10000 := by
      obtain ⟨-, hf⟩ | ⟨-, hf⟩ | ⟨h', -⟩ := s.fetch_cases
      · exact ⟨_, hf, by omega⟩
      · exact ⟨_, hf, by omega⟩
      · omega
    obtain ⟨a, hf, ha⟩ := hf
    obtain ⟨t, hcycle, hhalted, hcause, -, hframe⟩ := cycle_of_fetch_outOfRange rand hs hf ha
    exact ⟨t, hcycle, hhalted, hcause, (hframe.pc (by simp)).trans h⟩

/-- The two bytes that a fetch gave. -/
theorem memRead_of_fetch {hi lo : Byte} (h : s.fetch = .bytes hi lo) :
    s.memRead s.pc.toNat = some hi ∧ s.memRead (s.pc.toNat + 1) = some lo := by
  obtain ⟨-, hf⟩ | ⟨-, hf⟩ | ⟨hlt, hf⟩ := s.fetch_cases <;> cases hf.symm.trans h
  exact ⟨State.memRead_of_lt (by omega), State.memRead_of_lt hlt⟩

/-- Settles O8: a word of no row is rejected after the advance; and of the ways a cycle can halt, a failed fetch and a
fatal instruction have other causes. -/
theorem illegalWordHaltsWithPcAdvanced : Obligations.IllegalWordHaltsWithPcAdvanced := by
  constructor
  · intro s rand hi lo hs hhi hlo hrows
    have hd := (decodeWord_error_iff _).2 hrows
    refine ⟨(s.beginCycle rand).advance.raise .unrecognizedSuffix (Opcode.ofBytes hi lo), ?_, rfl, rfl, rfl,
      wrap12_toNat _, ?frame⟩
    · simp [cycle, hs, State.fetch_of_memRead hhi hlo, runWord, hd, causeOf]
    case frame =>
      exact ((UnchangedBut.beginCycle_advance s rand).mono (by simp)).trans ((UnchangedBut.raise _ _ _).mono (by simp))
  · intro s t rand hs h hhalted hcause
    obtain ⟨hh, -⟩ | ⟨-, ⟨a, -, hc⟩ | ⟨hi, lo, hf, ⟨hd, hc⟩ | ⟨i, u, -, hexec, hc⟩⟩⟩ := cycle_cases rand s
    · simp [hs] at hh
    · cases hc.symm.trans h
      cases hcause
    · cases hc.symm.trans h
      obtain ⟨hhi, hlo⟩ := memRead_of_fetch hf
      exact ⟨hi, lo, hhi, hlo, rfl, (decodeWord_error_iff _).1 hd⟩
    · cases hc.symm.trans h
      obtain ⟨hhalted', hcause', -⟩ := (afterExecute_frame i u).latch (by simp)
      exact absurd (hcause'.symm.trans hcause)
        (exec_cause_ne_unrecognizedSuffix hexec hs (hhalted'.symm.trans hhalted))

/-- R126: no cycle writes a key latch or `running`. -/
theorem cycle_keeps_host_parts {rand : Byte} (h : cycle rand s = .next t) :
    (∀ k, t.key k = s.key k) ∧ t.running = s.running := by
  obtain ⟨-, hc⟩ | ⟨-, ⟨a, -, hc⟩ | ⟨hi, lo, -, ⟨-, hc⟩ | ⟨i, u, -, hexec, hc⟩⟩⟩ := cycle_cases rand s <;>
    cases hc.symm.trans h
  case inr.inr.inr =>
    have hframe := exec_frame hexec
    obtain ⟨-, -, hrunning, hkeys, -⟩ := mayWrite_own_parts i
    have hafter := afterExecute_frame i u
    exact ⟨fun k => (hafter.keys (by simp) k).trans (hframe.keys (by simp [hkeys]) k),
      (hafter.running (by simp)).trans (hframe.running (by simp [hrunning]))⟩
  all_goals exact ⟨fun _ => rfl, rfl⟩

/-! ## The events of the host -/

/-- One part written after the script moved on. -/
theorem UnchangedBut.after_withPending {p : Part} {rest : List Event}
    (h : UnchangedBut [p] { s with pending := rest } t) : UnchangedBut [p, .bookkeeping] s t :=
  ((UnchangedBut.withPending s rest).mono (by simp)).trans (h.mono (by simp))

/-- A key latch written. -/
theorem UnchangedBut.setKey (s : State) (k : Nibble) (b : Bool) : UnchangedBut [.keys] s (s.setKey k b) := by
  constructor
  case keys => simp
  case latch => exact fun _ => ⟨rfl, rfl, rfl⟩
  case bookkeeping => exact fun _ => ⟨rfl, rfl, rfl, rfl⟩
  all_goals intros; rfl

/-- `running` written. -/
theorem UnchangedBut.withRunning (s : State) (b : Bool) : UnchangedBut [.running] s { s with running := b } := by
  constructor
  case running => simp
  case latch => exact fun _ => ⟨rfl, rfl, rfl⟩
  case bookkeeping => exact fun _ => ⟨rfl, rfl, rfl, rfl⟩
  all_goals intros; rfl

/-- Settles O27: each event is one write after the script moved on. -/
theorem hostWritesOneLatchOrTheRepaintFlag : Obligations.HostWritesOneLatchOrTheRepaintFlag := by
  intro s rest
  refine ⟨fun k b hp => ?key, fun hp => ?repaint, fun hp => ?quit⟩
  case key =>
    exact ⟨_, step_of_event hp, State.key_setKey_same _ k b, fun j hj => State.key_setKey_of_ne _ b hj,
      rfl, rfl, rfl, rfl, (UnchangedBut.setKey _ k b).after_withPending⟩
  case repaint =>
    exact ⟨_, step_of_event hp, rfl, rfl, rfl, rfl, rfl, (UnchangedBut.withRepaint _ false).after_withPending⟩
  case quit =>
    exact ⟨_, step_of_event hp, rfl, rfl, rfl, rfl, rfl, (UnchangedBut.withRunning _ false).after_withPending⟩

/-- Of the events only `set_key` and reset write the key latches. -/
theorem deliver_keeps_keys {e : Event} (h : deliver e s = .next t) (hreset : e ≠ .reset)
    (hset : ∀ k b, e ≠ .setKey k b) (k : Nibble) : t.key k = s.key k := by
  cases e with
  | reset => exact absurd rfl hreset
  | setKey j b => exact absurd rfl (hset j b)
  | cycle rand => exact (cycle_keeps_host_parts h).1 k
  | load j b => obtain ⟨-, rfl⟩ := loadByte_next h; rfl
  | tick => cases h; exact (UnchangedBut.tick s).keys (by simp) k
  | clearRepaint | quit => cases h; rfl

/-- Of the events only `quit` and reset write `running`. -/
theorem deliver_keeps_running {e : Event} (h : deliver e s = .next t) (hreset : e ≠ .reset) (hquit : e ≠ .quit) :
    t.running = s.running := by
  cases e with
  | reset => exact absurd rfl hreset
  | quit => exact absurd rfl hquit
  | cycle rand => exact (cycle_keeps_host_parts h).2
  | load j b => obtain ⟨-, rfl⟩ := loadByte_next h; rfl
  | tick => cases h; exact (UnchangedBut.tick s).running (by simp)
  | setKey | clearRepaint => cases h; rfl

/-- Settles O28: a change in a step is not a cycle's, so it is the delivered event's. -/
theorem latchesAndRunningAreTheHosts : Obligations.LatchesAndRunningAreTheHosts := by
  intro s t h
  obtain ⟨-, hcycle⟩ | ⟨e, rest, hp, hdeliver⟩ := step_cases h
  · obtain ⟨hkeys, hrunning⟩ := cycle_keeps_host_parts hcycle
    exact ⟨fun ⟨k, hk⟩ => absurd (hkeys k) hk, fun hr => absurd hrunning hr⟩
  · refine ⟨fun ⟨k, hk⟩ => ⟨e, rest, hp, ?keys⟩, fun hr => ⟨e, rest, hp, ?running⟩⟩
    case keys =>
      by_contra hno
      push Not at hno
      exact hk (deliver_keeps_keys (s := { s with pending := rest }) hdeliver hno.1 hno.2 k)
    case running =>
      by_contra hno
      push Not at hno
      exact hr (deliver_keeps_running (s := { s with pending := rest }) hdeliver hno.1 hno.2)

/-- Settles O24: every event but a load, and every cycle, answers; a load is decided by its two conditions. -/
theorem onlyALoadOutsideItsWindowIsRefused : Obligations.OnlyALoadOutsideItsWindowIsRefused := by
  intro s
  constructor
  · rintro ⟨k, b, rest, hp, hwindow⟩
    obtain ⟨-, hl⟩ | ⟨⟨hstarted, hk⟩, -⟩ := loadByte_cases k b { s with pending := rest }
    · exact ⟨_, (step_of_event hp).trans hl⟩
    · obtain h | h := hwindow
      · exact absurd (h.symm.trans hstarted) (by decide)
      · exact absurd hk (Nat.not_lt.2 h)
  · intro hno
    cases hp : s.pending with
    | nil => rw [step_of_no_events hp]; exact cycle_next _ s
    | cons e rest =>
      rw [step_of_event hp]
      cases e with
      | cycle rand => exact cycle_next rand _
      | load k b =>
        obtain ⟨hwindow, -⟩ | ⟨-, hl⟩ := loadByte_cases k b { s with pending := rest }
        · exact absurd ⟨k, b, rest, hp, hwindow⟩ hno
        · exact ⟨_, hl⟩
      | reset | tick | setKey | clearRepaint | quit => exact ⟨_, rfl⟩

/-- Settles O20: below MEM_SIZE a store is a write of the canonical memory, beyond it no access is made. -/
theorem storedByteReadsBack : Obligations.StoredByteReadsBack := by
  intro s a b hwf
  refine ⟨fun ha => ?stored, fun ha => ⟨State.memWrite_of_ge ha, State.memRead_of_ge ha⟩⟩
  case stored =>
    refine ⟨_, State.memWrite_of_lt ha, ?same, fun a' hne => ?other, Memory.wf_write hwf ha, .withMem s _⟩
    case same => simp [State.memRead, ha, Memory.read_write hwf]
    case other => simp only [State.memRead, Memory.read_write_of_ne hne]

/-- Settles O25: inside its window a load is one store, after the script moved on. -/
theorem loadPlacesAProgramByte : Obligations.LoadPlacesAProgramByte := by
  intro s k b rest hp hstarted hk hwf
  obtain ⟨h | h, -⟩ | ⟨-, hl⟩ := loadByte_cases k b { s with pending := rest }
  · exact absurd (hstarted.symm.trans h) (by decide)
  · exact absurd hk (Nat.not_lt.2 h)
  · obtain ⟨u, hu, hsame, hother, -, hframe⟩ := (storedByteReadsBack { s with pending := rest } (0x200 + k) b hwf).1 hk
    cases (State.memWrite_of_lt (s := { s with pending := rest }) hk).symm.trans hu
    exact ⟨_, (step_of_event hp).trans hl, hsame, hother, hstarted, rfl, hframe.after_withPending⟩

/-- Settles O14: reset puts every part of the state at its value, whatever it was. -/
theorem resetEventGivesTheResetValues : Obligations.ResetEventGivesTheResetValues := by
  intro s rest hp
  refine ⟨_, step_of_event hp, rfl, rfl, fun a => ?mem, fun r => ?reg, rfl, rfl, rfl, rfl, fun k => ?key,
    Frame.get_blank, rfl, rfl, rfl, rfl, rfl, rfl⟩
  case mem =>
    by_cases ha : s.cfg.memSize ≤ a
    · rw [if_pos ha]
      exact State.memRead_of_ge ha
    · rw [if_neg ha, ← apply_ite some]
      exact State.memRead_of_lt (Nat.not_le.1 ha)
  case reg => exact Vector.getElem_replicate _
  case key => exact Vector.getElem_replicate _

/-! ## The timer tick (R237) -/

theorem countDown_toNat (b : Byte) : (countDown b).toNat = b.toNat - 1 := by
  have := b.isLt
  unfold countDown
  split
  · rw [BitVec.toNat_ofNat]; omega
  · omega

/-- The tick of a machine that runs. -/
theorem State.tick_of_running (h : s.halted = false) :
    s.tick = { s with dt := countDown s.dt, st := countDown s.st } := by
  simp [State.tick, h]

/-- The tick of a halted machine. -/
theorem State.tick_of_halted (h : s.halted = true) : s.tick = s := by
  simp [State.tick, h]

/-- A step that is a tick. -/
theorem step_tick_of_running {rest : List Event} (hs : s.halted = false) (hp : s.pending = .tick :: rest) :
    step s = .next { s with pending := rest, dt := countDown s.dt, st := countDown s.st } :=
  (step_of_event hp).trans (congrArg Host.Outcome.next (State.tick_of_running (s := { s with pending := rest }) hs))

theorem step_tick_of_halted {rest : List Event} (hs : s.halted = true) (hp : s.pending = .tick :: rest) :
    step s = .next { s with pending := rest } :=
  (step_of_event hp).trans (congrArg Host.Outcome.next (State.tick_of_halted (s := { s with pending := rest }) hs))

/-- A step that answers, and the run from there. -/
theorem run_of_step {k : Nat} (h : step s = .next t) :
    Host.Core.run Sys2Proof.core (k + 1) s = Host.Core.run Sys2Proof.core k t := by
  have hstep : Sys2Proof.core.step s = .next t := h
  exact (run_eq Sys2Proof.core k s).trans (by rw [hstep])

/-- R237: n ticks count both timers down n times. -/
theorem run_ticks (n : Nat) (hs : s.halted = false) (hp : s.pending = List.replicate n .tick) :
    ∃ t, Host.Core.run Sys2Proof.core n s = .next t ∧ t.dt.toNat = s.dt.toNat - n ∧ t.st.toNat = s.st.toNat - n := by
  induction n generalizing s with
  | zero => exact ⟨s, rfl, rfl, rfl⟩
  | succ n ih =>
    obtain ⟨t, ht, hdt, hst⟩ := ih (s := { s with
      pending := List.replicate n .tick, dt := countDown s.dt, st := countDown s.st }) hs rfl
    refine ⟨t, (run_of_step (step_tick_of_running hs hp)).trans ht, ?_, ?_⟩
    · rw [hdt, countDown_toNat, Nat.sub_sub, Nat.add_comm]
    · rw [hst, countDown_toNat, Nat.sub_sub, Nat.add_comm]

/-- Settles O26: one tick by whether the machine is halted, n ticks by induction on n. -/
theorem tickCountsBothTimersDown : Obligations.TickCountsBothTimersDown := by
  refine ⟨fun s rest hp => ?one, fun n s hs hp => run_ticks n hs hp⟩
  case one =>
    obtain hs | hs := Bool.eq_false_or_eq_true s.halted
    · refine ⟨_, step_tick_of_halted hs hp, (UnchangedBut.withPending s rest).mono (by simp), rfl, rfl, rfl, rfl,
        fun h => absurd (hs.symm.trans h) (by decide), fun _ => ⟨rfl, rfl⟩⟩
    · have hframe := UnchangedBut.tick { s with pending := rest }
      rw [State.tick_of_running (s := { s with pending := rest }) hs] at hframe
      refine ⟨_, step_tick_of_running hs hp, ((UnchangedBut.withPending s rest).mono (by simp)).trans
        (hframe.mono (by simp)), rfl, rfl, rfl, rfl, fun _ => ⟨?_, ?_⟩, fun h => absurd (hs.symm.trans h) (by decide)⟩
      · rw [countDown_toNat]; split <;> omega
      · rw [countDown_toNat]; split <;> omega

/-! ## The halted machine (R257) -/

/-- R257: what an event other than reset can do to a halted machine. -/
theorem deliver_of_halted {e : Event} (hs : s.halted = true) (he : e ≠ .reset) (h : deliver e s = .next t) :
    UnchangedBut [.keys, .repaint, .running, .mem] s t ∧
      (s.started = true → ∀ a, t.memRead a = s.memRead a) := by
  cases e with
  | reset => exact absurd rfl he
  | load k b =>
    obtain ⟨⟨hst, -⟩, rfl⟩ := loadByte_next h
    exact ⟨(UnchangedBut.withMem s _).mono (by simp), fun hst' => absurd (hst.symm.trans hst') (by decide)⟩
  | cycle rand =>
    obtain ⟨-, hc⟩ | ⟨hs', -⟩ := cycle_cases rand s
    · cases hc.symm.trans h
      exact ⟨.refl _ _, fun _ _ => rfl⟩
    · exact absurd (hs.symm.trans hs') (by decide)
  | tick =>
    cases h
    rw [State.tick_of_halted hs]
    exact ⟨.refl _ _, fun _ _ => rfl⟩
  | setKey k b =>
    cases h
    exact ⟨(UnchangedBut.setKey s k b).mono (by simp), fun _ _ => rfl⟩
  | clearRepaint =>
    cases h
    exact ⟨(UnchangedBut.withRepaint s false).mono (by simp), fun _ _ => rfl⟩
  | quit =>
    cases h
    exact ⟨(UnchangedBut.withRunning s false).mono (by simp), fun _ _ => rfl⟩

/-- A cycle of a halted machine. -/
theorem cycle_of_halted (hs : s.halted = true) (rand : Byte) : cycle rand s = .next s := by
  simp [cycle, hs]

/-- R257: what a step other than a reset can do to a halted machine; the script loses its first event. -/
theorem step_of_halted (hs : s.halted = true) (hreset : s.pending.head? ≠ some .reset) (h : step s = .next t) :
    UnchangedBut [.keys, .repaint, .running, .mem, .bookkeeping] s t ∧ t.pending = s.pending.tail ∧
      (s.started = true → t.started = true ∧ ∀ a, t.memRead a = s.memRead a) := by
  obtain ⟨hp, hcycle⟩ | ⟨e, rest, hp, hdeliver⟩ := step_cases h
  · cases (cycle_of_halted hs _).symm.trans hcycle
    exact ⟨.refl _ _, by rw [hp]; rfl, fun hst => ⟨hst, fun _ => rfl⟩⟩
  · have he : e ≠ .reset := by rintro rfl; simp [hp] at hreset
    obtain ⟨hframe, hmem⟩ := deliver_of_halted (s := { s with pending := rest }) hs he hdeliver
    obtain ⟨hstarted, -, -, hpending⟩ := hframe.bookkeeping (by simp)
    refine ⟨?_, by rw [hpending, hp]; rfl, fun hst => ⟨hstarted.trans hst, hmem hst⟩⟩
    exact ((UnchangedBut.withPending s rest).mono (by simp)).trans (hframe.mono (by simp))

/-- Settles O10: the host's writes are those of any state, and a halted machine leaves its state by reset alone, since
every other step keeps the latch. -/
theorem haltedStateAbsorbsCyclesAndTicks : Obligations.HaltedStateAbsorbsCyclesAndTicks := by
  intro s rest hs
  obtain ⟨hkey, hrepaint, hquit⟩ := hostWritesOneLatchOrTheRepaintFlag s rest
  refine ⟨fun hp => ?cycleFree, fun r hp => ?cycle, fun hp => ?tick, fun k b hp => ?key, fun hp => ?repaint,
    fun hp => ?quit, fun hp => ?reset, fun t h ht => ?onlyReset⟩
  case cycleFree => rw [step_of_no_events hp, cycle_of_halted hs]
  case cycle => exact (step_of_event hp).trans (cycle_of_halted (s := { s with pending := rest }) hs r)
  case tick => exact step_tick_of_halted hs hp
  case key =>
    obtain ⟨t, hstep, hsame, hother, -, -, -, -, hframe⟩ := hkey k b hp
    exact ⟨t, hstep, hsame, hother, hframe⟩
  case repaint =>
    obtain ⟨t, hstep, hflag, -, -, -, -, hframe⟩ := hrepaint hp
    exact ⟨t, hstep, hflag, hframe⟩
  case quit =>
    obtain ⟨t, hstep, hflag, -, -, -, -, hframe⟩ := hquit hp
    exact ⟨t, hstep, hflag, hframe⟩
  case reset => exact ⟨_, step_of_event hp, rfl, rfl, rfl⟩
  case onlyReset =>
    by_contra hne
    obtain ⟨hframe, -⟩ := step_of_halted hs hne h
    obtain ⟨hhalted, -⟩ := hframe.latch (by simp)
    rw [hhalted, hs] at ht
    cases ht

/-- Settles O11: by induction on the number of steps, each of which keeps the frame and takes an event off a script that
holds no reset. -/
theorem haltedMachineStaysHaltedWithoutReset : Obligations.HaltedMachineStaysHaltedWithoutReset := by
  intro k
  induction k with
  | zero =>
    intro s t hs _ hrun
    cases hrun
    exact ⟨hs, .refl _ _, fun _ _ => rfl⟩
  | succ k ih =>
    intro s t hs hreset hrun
    obtain ⟨u, hstep, hrest⟩ := run_succ hrun
    obtain ⟨hframe, hpending, hmem⟩ := step_of_halted hs (fun h => hreset (List.mem_of_mem_head? h)) hstep
    have hu : u.halted = true := (hframe.latch (by simp)).1.trans hs
    obtain ⟨ht, hframe', hmem'⟩ := ih u t hu (fun h => hreset (List.mem_of_mem_tail (hpending ▸ h))) hrest
    refine ⟨ht, hframe.trans hframe', fun hst a => ?_⟩
    obtain ⟨hst', hsame⟩ := hmem hst
    exact (hmem' hst' a).trans (hsame a)

end Sys2Proof.Machine
end

section
/-! PROOF. The control-flow, arithmetic, random, font and keypad instructions (spec/41_control_flow.md,
spec/42_arithmetic.md, spec/43_index_memory.md R193, spec/45_keypad_timers.md section 1), one statement each. -/

namespace Sys2Proof.Machine

variable {s t : State}

/-- R256: the rule of a fatal instruction: the latch says why, nothing else changes. -/
theorem exec_fatal {i : Instr} {c : FaultCause} {a : Nat} (h : fatalCondition s i = some (c, a)) :
    ∃ t, exec i s = .next t ∧ t.halted = true ∧ t.faultCause = c ∧ t.faultInfo = BitVec.ofNat 16 a ∧
      UnchangedBut [.latch] s t :=
  ⟨_, exec_of_some h, rfl, rfl, rfl, .raise s c _⟩

/-- The same, with the info as a number. -/
theorem exec_fatal_toNat {i : Instr} {c : FaultCause} {a : Nat} (h : fatalCondition s i = some (c, a)) :
    ∃ t, exec i s = .next t ∧ t.halted = true ∧ t.faultCause = c ∧ t.faultInfo.toNat = a % 0x10000 ∧
      UnchangedBut [.latch] s t :=
  ⟨_, exec_of_some h, rfl, rfl, BitVec.toNat_ofNat a 16, .raise s c _⟩

/-! ## Call and return (R141, R143) -/

/-- R25: the newest entry stands above the older ones. -/
theorem State.stackEntry_of_cons {w : Word} {rest : List Word} (h : s.stack = w :: rest) :
    s.stackEntry rest.length = some w ∧ ∀ k, k < rest.length → s.stackEntry k = rest.reverse[k]? := by
  simp only [State.stackEntry, h, List.reverse_cons]
  constructor
  · rw [← List.length_reverse, List.getElem?_concat_length]
  · intro k hk
    exact List.getElem?_append_left (by rwa [List.length_reverse])

/-- Settles O30: with room, the push puts PC above the live entries; without, the condition is the overflow. -/
theorem callPushesTheReturnAddress : Obligations.CallPushesTheReturnAddress := by
  intro nnn s
  refine ⟨decodeWord_encode (.call nnn), fun hroom => ?pushes, fun hfull => ?overflows⟩
  case pushes =>
    obtain ⟨hnew, hold⟩ := State.stackEntry_of_cons (s := s.commit (.call nnn)) rfl
    exact ⟨_, exec_of_none (fatalCondition_call_eq_none.2 hroom), addrOperand_toNat nnn, rfl, hnew, hold,
      commit_frame (.call nnn) s⟩
  case overflows =>
    obtain ⟨t, hexec, hhalted, hcause, hinfo, hframe⟩ := exec_fatal (i := .call nnn) (if_neg (Nat.not_lt.2 hfull))
    exact ⟨t, hexec, hhalted, hcause, by rw [hinfo, BitVec.ofNat_toNat, BitVec.setWidth_eq], hframe⟩

/-- Settles O31: with an entry, the pop uncovers the older ones; without, the condition is the underflow. -/
theorem returnPopsIntoPc : Obligations.ReturnPopsIntoPc := by
  intro s
  refine ⟨decodeWord_encode .ret, fun hlive => ?pops, fun hempty => exec_fatal (i := .ret) (if_pos hempty)⟩
  case pops =>
    obtain ⟨w, rest, hstack⟩ := List.exists_cons_of_length_pos hlive
    obtain ⟨hnew, hold⟩ := State.stackEntry_of_cons hstack
    have hcommit : (s.commit .ret).pc = w ∧ (s.commit .ret).stack = rest := by simp [State.commit, hstack]
    refine ⟨_, exec_of_none (fatalCondition_ret_eq_none.2 (by simp [hstack])), ?_, ?_, fun k hk => ?_,
      commit_frame .ret s⟩
    · rw [hcommit.1, State.sp, hstack]
      exact hnew
    · rw [State.sp, State.sp, hcommit.2, hstack]
      rfl
    · rw [State.sp, hcommit.2] at hk
      rw [State.stackEntry, hcommit.2, hold k hk]

/-- Settles O19: the return finds what the call pushed. -/
theorem callThenReturnRestoresPcAndStack : Obligations.CallThenReturnRestoresPcAndStack := by
  intro s t u nnn _ hroom hcall hstack
  cases (exec_of_none (fatalCondition_call_eq_none.2 hroom)).symm.trans hcall
  have hu : u.stack = s.pc :: s.stack := hstack
  refine ⟨_, exec_of_none (fatalCondition_ret_eq_none.2 (by simp [hu])), ?_, ?_⟩ <;> simp [State.commit, hu]

/-! ## Skips and the jump with offset (R144 to R148) -/

/-- R140: the rule of the instructions whose meaning is a conditional skip. -/
theorem exec_skips {i : Instr} {c : Bool} (h : exec i s = .next (s.skipIf c)) :
    ∃ t, exec i s = .next t ∧ (c = true → t.pc.toNat = (s.pc.toNat + 2) % 0x1000) ∧ (c = false → t.pc = s.pc) ∧
      UnchangedBut [.pc] s t := by
  refine ⟨_, h, ?_, ?_, .skipIf s c⟩
  · rintro rfl; exact wrap12_toNat _
  · rintro rfl; rfl

/-- Settles O32: each of the four is a skip on the Boolean value of its condition. -/
theorem skipsAdvanceOnceMoreWhenTheConditionHolds : Obligations.SkipsAdvanceOnceMoreWhenTheConditionHolds := by
  intro x y nn s
  refine ⟨⟨decodeWord_encode (.seImm x nn), decodeWord_encode (.sneImm x nn), decodeWord_encode (.seReg x y),
    decodeWord_encode (.sneReg x y)⟩, fun i cond h => ?_⟩
  have hskip : ∃ c : Bool, exec i s = .next (s.skipIf c) ∧ (c = true ↔ cond) := by
    obtain ⟨rfl, rfl⟩ | ⟨rfl, rfl⟩ | ⟨rfl, rfl⟩ | ⟨rfl, rfl⟩ := h
    · exact ⟨_, rfl, beq_iff_eq⟩
    · exact ⟨_, rfl, bne_iff_ne⟩
    · exact ⟨_, rfl, beq_iff_eq⟩
    · exact ⟨_, rfl, bne_iff_ne⟩
  obtain ⟨c, hexec, hc⟩ := hskip
  obtain ⟨t, ht, htaken, hnot, hframe⟩ := exec_skips hexec
  exact ⟨t, ht, fun h => htaken (hc.2 h), fun h => hnot (Bool.eq_false_iff.2 fun h' => h (hc.1 h')), hframe⟩

/-- Settles O33: the target fits into PC when it is at most 0xFFF, and is the info of the fatal condition otherwise. -/
theorem jumpWithOffsetAddsV0 : Obligations.JumpWithOffsetAddsV0 := by
  intro nnn s
  refine ⟨decodeWord_encode (.jpV0 nnn), fun hle => ?jumps, fun hgt => ?fatal⟩
  case jumps =>
    have hfits : offsetTarget s nnn < 0x10000 := Nat.lt_of_le_of_lt hle (by decide)
    exact ⟨_, exec_of_none (fatalCondition_jpV0_eq_none.2 hle),
      (BitVec.toNat_ofNat _ 16).trans (Nat.mod_eq_of_lt hfits), commit_frame (.jpV0 nnn) s⟩
  case fatal =>
    obtain ⟨t, hexec, hhalted, hcause, hinfo, hframe⟩ := exec_fatal_toNat (i := .jpV0 nnn) (if_neg (Nat.not_le.2 hgt))
    have := nnn.isLt
    have := (s.reg 0).isLt
    exact ⟨t, hexec, hhalted, hcause, hinfo.trans (Nat.mod_eq_of_lt (by omega)), hframe⟩

/-! ## Arithmetic with a flag (R167 to R172) -/

/-- R169, `8XY4`: the result, unless the flag went over it. -/
theorem State.reg_setResultThenFlag (s : State) {x : Nibble} (hx : x ≠ 0xF) (r : Byte) (f : Bool) :
    (s.setResultThenFlag x r f).reg x = r :=
  (State.reg_setReg_of_ne _ _ hx).trans (State.reg_setReg_same s x r)

/-- R169, the others: the result, always. -/
@[simp] theorem State.reg_setFlagThenResult (s : State) (x : Nibble) (r : Byte) (f : Bool) :
    (s.setFlagThenResult x r f).reg x = r :=
  State.reg_setReg_same _ x r

/-- Settles O37: the sum is written before the flag. -/
theorem addWrapsAndSetsCarry : Obligations.AddWrapsAndSetsCarry := by
  intro x y s
  refine ⟨decodeWord_encode (.addReg x y), _, rfl, fun hx => ?sum, ?carry, .setResultThenFlag s x _ _⟩
  case sum => rw [State.reg_setResultThenFlag s hx, sum8_toNat]
  case carry =>
    rw [State.vf_setResultThenFlag, flagByte_toNat, carry]
    split <;> simp_all

/-- R160: the stored difference, as an integer. -/
theorem diff8_toNat (a b : Byte) : ((diff8 a b).toNat : Int) = ((a.toNat : Int) - b.toNat) % 256 := by
  rw [diff8, BitVec.toNat_ofInt]
  omega

theorem flagByte_noBorrow (a b : Byte) : flagByte (noBorrow a b) = if a ≥ b then 1 else 0 := by
  simp [flagByte, noBorrow, BitVec.le_def]

/-- The rule of the four instructions that write the flag first: the result is in Vx, and the flag in VF unless X is
0xF. -/
theorem exec_writes_flag_then_result {i : Instr} {x : Nibble} {r : Byte} {f : Bool}
    (h : exec i s = .next (s.setFlagThenResult x r f)) :
    ∃ t, exec i s = .next t ∧ t.reg x = r ∧ (x ≠ 0xF → t.reg 0xF = flagByte f) ∧
      UnchangedBut [.reg x, .reg 0xF] s t :=
  ⟨_, h, State.reg_setFlagThenResult s x r f, fun hx => State.vf_setFlagThenResult s hx r f,
    .setFlagThenResult s x r f⟩

/-- Settles O38: the difference wraps, the flag compares the operands. -/
theorem subtractsWrapAndSetNoBorrow : Obligations.SubtractsWrapAndSetNoBorrow := by
  intro x y s
  refine ⟨⟨decodeWord_encode (.subReg x y), decodeWord_encode (.subnReg x y)⟩, ?sub, ?subn⟩
  case sub =>
    obtain ⟨t, ht, hreg, hflag, hframe⟩ := exec_writes_flag_then_result (i := .subReg x y) (s := s) rfl
    exact ⟨t, ht, by rw [hreg, diff8_toNat], fun hx => (hflag hx).trans (flagByte_noBorrow _ _), hframe⟩
  case subn =>
    obtain ⟨t, ht, hreg, hflag, hframe⟩ := exec_writes_flag_then_result (i := .subnReg x y) (s := s) rfl
    exact ⟨t, ht, by rw [hreg, diff8_toNat], fun hx => (hflag hx).trans (flagByte_noBorrow _ _), hframe⟩

/-- R160: a division by 2 moves every bit one position down. -/
theorem getLsbD_shr8 (a : Byte) {b : Nat} (hb : b < 8) :
    (shr8 a).getLsbD b = (decide (b < 7) && a.getLsbD (b + 1)) := by
  have hshift : shr8 a = a >>> 1 := by
    apply BitVec.eq_of_toNat_eq
    rw [shr8, BitVec.toNat_ofNat, BitVec.toNat_ushiftRight, Nat.shiftRight_eq_div_pow]
    omega
  rw [hshift, BitVec.getLsbD_ushiftRight, Nat.add_comm]
  by_cases h : b < 7
  · simp [h]
  · rw [BitVec.getLsbD_of_ge a _ (by omega), Bool.and_false]

/-- R160: a doubling modulo 256 moves every bit one position up. -/
theorem getLsbD_shl8 (a : Byte) {b : Nat} (hb : b < 8) :
    (shl8 a).getLsbD b = (decide (0 < b) && a.getLsbD (b - 1)) := by
  have hshift : shl8 a = a <<< 1 := by
    apply BitVec.eq_of_toNat_eq
    rw [shl8, BitVec.toNat_ofNat, BitVec.toNat_shiftLeft, Nat.shiftLeft_eq]
    omega
  rw [hshift, BitVec.getLsbD_shiftLeft]
  simp [hb, Nat.pos_iff_ne_zero]

theorem shrOut_eq (a : Byte) : shrOut a = a.getLsbD 0 := by
  rw [← BitVec.testBit_toNat, Nat.testBit_zero, shrOut]

theorem shlOut_eq (a : Byte) : shlOut a = a.getLsbD 7 := by
  have := a.isLt
  rw [← BitVec.testBit_toNat, Nat.testBit_eq_decide_div_mod_eq, shlOut, decide_eq_decide]
  omega

/-- Settles O39: both shift the source that LEGACY_SHIFT selects. -/
theorem shiftsMoveOneBitAndKeepTheLostOne : Obligations.ShiftsMoveOneBitAndKeepTheLostOne := by
  intro x y s src hsrc
  have hsource : shiftSource s x y = src := hsrc.symm
  refine ⟨⟨decodeWord_encode (.shr x y), decodeWord_encode (.shl x y)⟩, ?shr, ?shl⟩
  case shr =>
    obtain ⟨t, ht, hreg, hflag, hframe⟩ := exec_writes_flag_then_result (i := .shr x y) (s := s) rfl
    rw [hsource] at hreg hflag
    exact ⟨t, ht, fun b hb => by rw [hreg, getLsbD_shr8 src hb],
      fun hx => by rw [hflag hx, flagByte_toNat, shrOut_eq], hframe⟩
  case shl =>
    obtain ⟨t, ht, hreg, hflag, hframe⟩ := exec_writes_flag_then_result (i := .shl x y) (s := s) rfl
    rw [hsource] at hreg hflag
    exact ⟨t, ht, fun b hb => by rw [hreg, getLsbD_shl8 src hb],
      fun hx => by rw [hflag hx, flagByte_toNat, shlOut_eq], hframe⟩

/-! ## The random byte and the font address (R173, R193) -/

/-- Settles O40: one register write, of the draw masked. -/
theorem randomByteIsMaskedByTheImmediate : Obligations.RandomByteIsMaskedByTheImmediate := by
  intro x nn s
  obtain ⟨t, ht, hreg, hframe⟩ := exec_writes_one_register (i := .rnd x nn) (s := s) rfl
  refine ⟨decodeWord_encode (.rnd x nn), t, ht, hreg, fun b hb => ?bit, ?bound, hframe⟩
  case bit => rw [hreg, BitVec.getLsbD_and, hb, Bool.and_false]
  case bound =>
    rw [hreg, BitVec.toNat_and]
    exact Nat.and_le_right

/-- Settles O42: one write of I, from the register alone. -/
theorem fontAddressIsFiveTimesTheRegister : Obligations.FontAddressIsFiveTimesTheRegister := by
  intro x s
  obtain ⟨t, ht, hi, hframe⟩ := exec_writes_index (ins := .ldF x) (s := s) rfl
  rw [glyphAddress_toNat] at hi
  have := (s.reg x).isLt
  exact ⟨decodeWord_encode (.ldF x), t, ht, hi, by omega, hframe⟩

/-! ## The keypad (R230 to R233) -/

/-- R230, R231: a key skip whose register selects the latch `k`. -/
theorem skipOnKey_of_key {x k : Nibble} (h : (s.reg x).toNat = k.toNat) (down : Bool) :
    skipOnKey x down s = .next (s.skipIf (s.key k == down)) := by
  have hk := k.isLt
  rw [skipOnKey_eq, if_pos (by omega), h, Nibble.ofNat_toNat]

/-- Settles O51: a key skip is a skip on the selected latch, or fatal with the register's value. -/
theorem keySkipsFollowTheSelectedLatch : Obligations.KeySkipsFollowTheSelectedLatch := by
  intro x s
  refine ⟨⟨decodeWord_encode (.skp x), decodeWord_encode (.sknp x)⟩, fun k hk => ⟨?skp, ?sknp⟩, fun hgt i hi => ?fatal⟩
  case skp =>
    obtain ⟨t, ht, htaken, hnot, hframe⟩ := exec_skips (i := .skp x) (skipOnKey_of_key hk true)
    exact ⟨t, ht, fun h => htaken (by rw [h]; rfl), fun h => hnot (by rw [h]; rfl), hframe⟩
  case sknp =>
    obtain ⟨t, ht, htaken, hnot, hframe⟩ := exec_skips (i := .sknp x) (skipOnKey_of_key hk false)
    exact ⟨t, ht, fun h => htaken (by rw [h]; rfl), fun h => hnot (by rw [h]; rfl), hframe⟩
  case fatal =>
    have hfatal : fatalCondition s i = some (.keyIndexOutOfRange, (s.reg x).toNat) := by
      simp only [List.mem_cons, List.not_mem_nil, or_false] at hi
      obtain rfl | rfl := hi <;> exact if_neg (Nat.not_le.2 hgt)
    obtain ⟨t, hexec, hhalted, hcause, hinfo, hframe⟩ := exec_fatal_toNat hfatal
    have := (s.reg x).isLt
    exact ⟨t, hexec, hhalted, hcause, hinfo.trans (Nat.mod_eq_of_lt (by omega)), hframe⟩

/-- R233: the scan goes through the keys in rising order. -/
theorem State.pressedKeys_rising (s : State) : s.pressedKeys.Pairwise fun j k => j.toNat < k.toNat :=
  List.Pairwise.filter _ (by decide)

/-- R233: under KEY_PICK lowest no pressed key is below the one reported. -/
theorem State.pickKey_lowest {k j : Nibble} (hcfg : s.cfg.keyPick = .lowest) (h : s.pickKey = some k)
    (hj : s.key j = true) : k.toNat ≤ j.toNat := by
  simp only [State.pickKey, hcfg] at h
  obtain ⟨rest, hkeys⟩ := List.head?_eq_some_iff.1 h
  have hmem := State.mem_pressedKeys.2 hj
  have hrising := s.pressedKeys_rising
  rw [hkeys] at hmem hrising
  obtain rfl | hrest := List.mem_cons.1 hmem
  · exact Nat.le_refl _
  · exact Nat.le_of_lt (List.rel_of_pairwise_cons hrising hrest)

/-- R233: with no key pressed `FX0A` rewinds PC. -/
theorem exec_ldVxK_of_none (x : Nibble) (h : ∀ k, s.key k = false) : exec (.ldVxK x) s = .next s.rewind := by
  simp [exec, execLdVxK, (State.pickKey_eq_none_iff s).2 h]

/-- R233: with a key reported `FX0A` writes its index. -/
theorem exec_ldVxK_of_some (x : Nibble) {k : Nibble} (h : s.pickKey = some k) :
    exec (.ldVxK x) s = .next (s.setReg x (k.setWidth 8)) := by
  simp [exec, execLdVxK, h]

/-- D27: the rewind undoes the advance. -/
theorem State.rewind_advance (h : s.pc.toNat ≤ 0xFFF) : s.advance.rewind = s := by
  have hpc : wrap12 (0xFFE + (wrap12 (s.pc.toNat + 2)).toNat) = s.pc := by
    apply BitVec.eq_of_toNat_eq
    rw [wrap12_toNat, wrap12_toNat]
    omega
  show { s with pc := wrap12 (0xFFE + (wrap12 (s.pc.toNat + 2)).toNat) } = s
  rw [hpc]

/-- Settles O52: a key is reported exactly when one is pressed; without one, the rewind undoes the advance. -/
theorem waitForKeyTakesAPressedKeyOrRepeats : Obligations.WaitForKeyTakesAPressedKeyOrRepeats := by
  intro x s
  refine ⟨decodeWord_encode (.ldVxK x), fun hsome => ?takes, fun hnone => ?rewinds, fun hnone hpc => ?repeats⟩
  case takes =>
    obtain ⟨j, hj⟩ := hsome
    have hpick : s.pickKey ≠ none := fun h => by
      rw [(State.pickKey_eq_none_iff s).1 h j] at hj
      cases hj
    obtain ⟨k, hk⟩ := Option.ne_none_iff_exists'.1 hpick
    obtain ⟨t, ht, hreg, hframe⟩ := exec_writes_one_register (exec_ldVxK_of_some x hk)
    refine ⟨t, k, ht, State.pickKey_pressed hk, ?_, fun hcfg j hj => State.pickKey_lowest hcfg hk hj, hframe⟩
    rw [hreg, BitVec.toNat_setWidth]
    have := k.isLt
    omega
  case rewinds => exact ⟨_, exec_ldVxK_of_none x hnone, wrap12_toNat _, .withPc s _⟩
  case repeats =>
    have hrewind : exec (.ldVxK x) s.advance = .next s := by
      rw [exec_ldVxK_of_none x (s := s.advance) hnone, State.rewind_advance hpc]
    exact ⟨s, hrewind, rfl, .refl _ s⟩

end Sys2Proof.Machine
end

section
/-! PROOF. The block instructions `FX33`, `FX55` and `FX65` (spec/43_index_memory.md R190, R194 to R196) and what the
next fetch sees of a store (spec/20_memory.md section 4). -/

namespace Sys2Proof.Machine

variable {s t : State}

/-! ## Blocks -/

/-- R190: a block that is not empty and does not fit is fatal with the lowest address of it that does not exist. -/
theorem blockFault_eq_some {size base n : Nat} (hn : n ≠ 0) (h : size < base + n) :
    blockFault size base n = some (.addressOutOfRange, max base size) := by
  rw [blockFault, if_neg (by omega)]
  split
  · next hb => rw [Nat.max_eq_left hb]
  · next hb => rw [Nat.max_eq_right (by omega)]

/-- R194, R195: a byte of a stored block reads back, in a canonical memory. -/
theorem State.memRead_storeBlock {base k : Nat} {bs : List Byte} (hwf : Memory.wf s.cfg s.mem = true)
    (hroom : base + bs.length ≤ s.cfg.memSize) (hk : k < bs.length) :
    (s.storeBlock base bs).memRead (base + k) = some (bs.getD k 0) := by
  have hread := State.memRead_of_lt (s := s.storeBlock base bs) (a := base + k) (by
    rw [State.storeBlock_cfg]
    omega)
  rw [hread, State.storeBlock_cfg, State.storeBlock_mem, Memory.read_writeBlock bs hwf hroom, if_pos (by omega),
    Nat.add_sub_cancel_left]

/-- R195: register r of the block that `FX55` stores reads back at I + r. -/
theorem memRead_commit_stRegs {x r : Nibble} (hwf : Memory.wf s.cfg s.mem = true)
    (hroom : blockBase s + x.toNat < s.cfg.memSize) (hr : r.toNat ≤ x.toNat) :
    (s.commit (.stRegs x)).memRead (blockBase s + r.toNat) = some (s.reg r) := by
  have hlen : (s.firstRegs (regCount x)).length = x.toNat + 1 := State.firstRegs_length s _
  have hlt : r.toNat < regCount x := Nat.lt_succ_of_le hr
  have hread := State.memRead_storeBlock (base := blockBase s) (bs := s.firstRegs (regCount x)) (k := r.toNat) hwf
    (by omega) (by omega)
  rw [State.firstRegs_getD s hlt, Nibble.ofNat_toNat] at hread
  exact hread

/-- The blocks of `FX55` and `FX65` that fit. -/
theorem block_fits {x : Nibble} (h : blockBase s + x.toNat < s.cfg.memSize) :
    blockFault s.cfg.memSize s.i.toNat (x.toNat + 1) = none :=
  blockFault_eq_none.2 (.inr h)

/-- The blocks of `FX55` and `FX65` that do not. -/
theorem block_overruns {x : Nibble} (h : s.cfg.memSize ≤ blockBase s + x.toNat) :
    blockFault s.cfg.memSize s.i.toNat (x.toNat + 1) = some (.addressOutOfRange, max (blockBase s) s.cfg.memSize) :=
  blockFault_eq_some (Nat.succ_ne_zero _) (Nat.lt_succ_of_le h)

/-! ## `FX33` (R194) -/

/-- R194: the three digits of a byte are decimal digits and make up its value. -/
theorem bcdDigits_spec (b : Byte) : ∃ h d u : Byte, bcdDigits b = [h, d, u] ∧ h.toNat ≤ 2 ∧ d.toNat ≤ 9 ∧
    u.toNat ≤ 9 ∧ b.toNat = 100 * h.toNat + 10 * d.toNat + u.toNat := by
  have := b.isLt
  refine ⟨_, _, _, rfl, ?_⟩
  simp only [BitVec.toNat_ofNat]
  omega

/-- Settles O43: the digits are stored as a block of three, after the check of the block. -/
theorem bcdStoresThreeDigitsAtI : Obligations.BcdStoresThreeDigitsAtI := by
  intro x s hwf
  refine ⟨decodeWord_encode (.ldB x), fun hroom => ?stores, fun hover => ?fatal⟩
  case stores =>
    obtain ⟨h, d, u, hdigits, hh, hd, hu, hvalue⟩ := bcdDigits_spec (s.reg x)
    have hread (k : Nat) (hk : k < 3) : (s.commit (.ldB x)).memRead (blockBase s + k) = some ([h, d, u].getD k 0) := by
      rw [← hdigits]
      exact State.memRead_storeBlock (bs := bcdDigits (s.reg x)) hwf hroom hk
    exact ⟨_, exec_of_none (blockFault_eq_none.2 (.inr hroom)),
      ⟨h, d, u, hread 0 (by decide), hread 1 (by decide), hread 2 (by decide), hh, hd, hu, hvalue⟩,
      fun a ha => commit_memRead_outside (.ldB x) s ha, commit_frame (.ldB x) s⟩
  case fatal =>
    exact exec_fatal_toNat (i := .ldB x) (blockFault_eq_some (by decide) (Nat.lt_succ_of_le hover))

/-! ## `FX55` and `FX65` (R195, R196) -/

/-- Settles O44: the registers are stored as a block, after the check of the block. -/
theorem storeRegistersWritesABlockAtI : Obligations.StoreRegistersWritesABlockAtI := by
  intro x s hwf
  refine ⟨decodeWord_encode (.stRegs x), fun hroom => ?stores,
    fun hover => exec_fatal_toNat (i := .stRegs x) (block_overruns hover)⟩
  case stores =>
    exact ⟨_, exec_of_none (block_fits hroom), fun r hr => memRead_commit_stRegs hwf hroom hr,
      fun a ha => commit_memRead_outside (.stRegs x) s ha, wrap12_toNat _, commit_frame (.stRegs x) s⟩

/-- R196: the register file after `FX65`. -/
theorem reg_commit_ldRegs (s : State) (x r : Nibble) : (s.commit (.ldRegs x)).reg r =
    if r.toNat ≤ x.toNat then Memory.read s.cfg s.mem (blockBase s + r.toNat) else s.reg r :=
  State.reg_loadBlock s x r (blockBase s)

/-- Settles O45: the registers are loaded as a block, after the check of the block. -/
theorem loadRegistersReadsABlockAtI : Obligations.LoadRegistersReadsABlockAtI := by
  intro x s
  refine ⟨decodeWord_encode (.ldRegs x), fun hroom => ?loads,
    fun hover => exec_fatal_toNat (i := .ldRegs x) (block_overruns hover)⟩
  case loads =>
    refine ⟨_, exec_of_none (block_fits hroom), fun r hr => ?_, fun r hr => ?_, wrap12_toNat _,
      commit_frame (.ldRegs x) s⟩
    · rw [reg_commit_ldRegs, if_pos hr, State.memRead_of_lt (by omega)]
    · rw [reg_commit_ldRegs, if_neg (by omega)]

/-- Settles O46: `FX65` reads from the same base the bytes that `FX55` stored there. -/
theorem loadRegistersUndoesStoreRegisters : Obligations.LoadRegistersUndoesStoreRegisters := by
  intro x s t u hwf _ hroom hstore hcfg hmem hi
  cases (exec_of_none (i := .stRegs x) (block_fits hroom)).symm.trans hstore
  have hbase : blockBase u = blockBase s := congrArg BitVec.toNat hi
  have hu : blockBase u + x.toNat < u.cfg.memSize := by
    rw [hbase, hcfg, (commit_frame (.stRegs x) s).cfg]
    exact hroom
  obtain ⟨w, hload, hregs, -, -, -⟩ := (loadRegistersReadsABlockAtI x u).2.1 hu
  refine ⟨w, hload, fun r hr => ?reg, ?index⟩
  case reg =>
    have hread := hregs r hr
    rw [hbase, State.memRead_congr hcfg hmem, memRead_commit_stRegs hwf hroom hr] at hread
    exact Option.some.inj hread
  case index =>
    cases (exec_of_none (i := .ldRegs x) (block_fits hu)).symm.trans hload
    show wrap12 (blockBase u + regCount x) = wrap12 (blockBase s + regCount x)
    rw [hbase]

/-- Settles O21: the first two bytes that `FX55` stores at PC are the two that a fetch reads. -/
theorem storeIsSeenByTheNextFetch : Obligations.StoreIsSeenByTheNextFetch := by
  intro s x hwf hs hx hipc hroom
  have hbase : s.pc.toNat = blockBase s := congrArg BitVec.toNat hipc.symm
  refine ⟨_, exec_of_none (block_fits hroom), (commit_latch (.stRegs x) s).1.trans hs, State.fetch_of_memRead ?_ ?_⟩
  · show (s.commit (.stRegs x)).memRead s.pc.toNat = _
    rw [hbase]
    exact memRead_commit_stRegs (r := 0) hwf hroom (Nat.zero_le _)
  · show (s.commit (.stRegs x)).memRead (s.pc.toNat + 1) = _
    rw [hbase]
    exact memRead_commit_stRegs (r := 1) hwf hroom hx

end Sys2Proof.Machine
end

section
/-! PROOF. `DXYN` (spec/44_display.md R211 to R213). A drawing toggles a set of pixels: the innermost step one at most,
a row those of its bits, the sprite those of its rows. No pixel is toggled twice, so the set says both what the screen
shows and, against the screen before, whether a lit pixel went off. -/

namespace Sys2Proof.Machine

/-! ## Toggling a set of pixels -/

/-- From `d` to `d'` the pixels of the grid in `m` are toggled, and a collision is noted when one of them was lit. -/
structure Drawing.Toggles (m : Nat → Nat → Bool) (d d' : Drawing) : Prop where
  pixels : ∀ px py, px < 64 → py < 32 → d'.fb.get px py = (d.fb.get px py ^^ m px py)
  collision : d'.collision = true ↔
    d.collision = true ∨ ∃ px py, px < 64 ∧ py < 32 ∧ m px py = true ∧ d.fb.get px py = true

namespace Drawing.Toggles

variable {m m' : Nat → Nat → Bool} {d d' d'' : Drawing}

/-- Only the grid matters. -/
theorem congr (h : Toggles m d d') (hm : ∀ px py, px < 64 → py < 32 → m px py = m' px py) : Toggles m' d d' where
  pixels px py hx hy := by rw [← hm px py hx hy]; exact h.pixels px py hx hy
  collision := by
    rw [h.collision]
    refine or_congr_right (exists_congr fun px => exists_congr fun py => ?_)
    refine and_congr_right fun hx => and_congr_right fun hy => ?_
    rw [hm px py hx hy]

/-- No pixel of the grid toggled. -/
theorem refl (hm : ∀ px py, px < 64 → py < 32 → m px py = false) (d : Drawing) : Toggles m d d where
  pixels px py hx hy := by rw [hm px py hx hy, Bool.xor_false]
  collision := by
    refine ⟨.inl, fun h => h.resolve_right ?_⟩
    rintro ⟨px, py, hx, hy, hset, -⟩
    rw [hm px py hx hy] at hset
    cases hset

/-- Two sets toggled one after the other, none of the second set being in the first. -/
theorem trans (h : Toggles m d d') (h' : Toggles m' d' d'') (hdisj : ∀ px py, m' px py = true → m px py = false) :
    Toggles (fun px py => m px py || m' px py) d d'' where
  pixels px py hx hy := by
    rw [h'.pixels px py hx hy, h.pixels px py hx hy, Bool.xor_assoc]
    cases hm' : m' px py with
    | false => rw [Bool.xor_false, Bool.or_false]
    | true => rw [hdisj px py hm']; rfl
  collision := by
    have hsame : ∀ px py, px < 64 → py < 32 → m' px py = true → d'.fb.get px py = d.fb.get px py :=
      fun px py hx hy hset => by rw [h.pixels px py hx hy, hdisj px py hset, Bool.xor_false]
    rw [h'.collision, h.collision, or_assoc]
    refine or_congr_right ⟨?_, ?_⟩
    · rintro (⟨px, py, hx, hy, hset, hlit⟩ | ⟨px, py, hx, hy, hset, hlit⟩)
      · exact ⟨px, py, hx, hy, by rw [hset, Bool.true_or], hlit⟩
      · exact ⟨px, py, hx, hy, by rw [hset, Bool.or_true], (hsame px py hx hy hset).symm.trans hlit⟩
    · rintro ⟨px, py, hx, hy, hset, hlit⟩
      obtain hset | hset := Bool.or_eq_true_iff.1 hset
      · exact .inl ⟨px, py, hx, hy, hset, hlit⟩
      · exact .inr ⟨px, py, hx, hy, hset, (hsame px py hx hy hset).trans hlit⟩

end Drawing.Toggles

/-! ## Pixels, rows, sprites (R211, R212) -/

/-- The pixel of column `c` of the sprite row `row`, drawn at row `r`, when that bit is set. -/
def pixelMask (ox oy : Nat) (row : Byte) (r c px py : Nat) : Bool :=
  decide (px = ox + c) && decide (py = oy + r) && spriteBit row c

/-- The pixels of the first `n` columns of the sprite row `row`, drawn at row `r`. -/
def rowMask (ox oy : Nat) (row : Byte) (r n px py : Nat) : Bool :=
  decide (ox ≤ px) && decide (px < ox + n) && decide (py = oy + r) && spriteBit row (px - ox)

/-- The pixels of the sprite rows `rows`, the first drawn at row `r`. -/
def rowsMask (ox oy : Nat) (rows : List Byte) (r px py : Nat) : Bool :=
  decide (ox ≤ px) && decide (px < ox + 8) && decide (oy + r ≤ py) && decide (py < oy + r + rows.length) &&
    spriteBit (rows.getD (py - (oy + r)) 0) (px - ox)

theorem Drawing.pixel_toggles (ox oy : Nat) (row : Byte) (r c : Nat) (d : Drawing) :
    Drawing.Toggles (pixelMask ox oy row r c) d (d.pixel ox oy row r c) := by
  obtain ⟨⟨hset, hx, hy⟩, h⟩ | ⟨hno, h⟩ := Drawing.pixel_cases ox oy row r c d <;> rw [h]
  · constructor
    · intro px py _ _
      rw [Frame.get_put _ _ hx hy, pixelMask, hset, Bool.and_true]
      by_cases hp : px = ox + c ∧ py = oy + r
      · obtain ⟨rfl, rfl⟩ := hp
        simp
      · rw [if_neg hp, ← Bool.decide_and, decide_eq_false hp, Bool.xor_false]
    · simp only [pixelMask, hset, Bool.and_true, Bool.or_eq_true, Bool.and_eq_true, decide_eq_true_eq]
      refine or_congr_right ⟨fun hlit => ⟨_, _, hx, hy, ⟨rfl, rfl⟩, hlit⟩, ?_⟩
      rintro ⟨_, _, -, -, ⟨rfl, rfl⟩, hlit⟩
      exact hlit
  · refine .refl (fun px py hx hy => ?_) d
    rw [pixelMask, Bool.eq_false_iff]
    intro hset
    simp only [Bool.and_eq_true, decide_eq_true_eq] at hset
    obtain ⟨⟨rfl, rfl⟩, hset⟩ := hset
    exact hno ⟨hset, hx, hy⟩

/-- The first `n` columns of a row, by induction on `n`. -/
theorem Drawing.columns_toggle (ox oy : Nat) (row : Byte) (r n : Nat) (d : Drawing) :
    Drawing.Toggles (rowMask ox oy row r n) d ((List.range n).foldl (fun d c => d.pixel ox oy row r c) d) := by
  induction n with
  | zero => exact .refl (fun px py _ _ => by simp [rowMask]) d
  | succ n ih =>
    rw [List.range_succ, List.foldl_append]
    refine (ih.trans (Drawing.pixel_toggles ox oy row r n _) ?disjoint).congr ?union
    case disjoint =>
      intro px py h
      simp only [pixelMask, Bool.and_eq_true, decide_eq_true_eq] at h
      simp [rowMask, h.1.1]
    case union =>
      intro px py _ _
      by_cases hpx : px = ox + n
      · subst hpx; simp [rowMask, pixelMask]
      · have hiff : px < ox + (n + 1) ↔ px < ox + n := by omega
        simp [rowMask, pixelMask, hpx, hiff]

/-- The rows of a sprite, by induction on them. -/
theorem Drawing.rows_toggle (ox oy : Nat) (rows : List Byte) (r : Nat) (d : Drawing) :
    Drawing.Toggles (rowsMask ox oy rows r) d (Drawing.rows ox oy rows r d) := by
  induction rows generalizing r d with
  | nil => exact .refl (fun px py _ _ => by simp [rowsMask]) d
  | cons row rest ih =>
    refine ((Drawing.columns_toggle ox oy row r 8 d).trans (ih (r + 1) _) ?disjoint).congr ?union
    case disjoint =>
      intro px py h
      simp only [rowsMask, Bool.and_eq_true, decide_eq_true_eq] at h
      have hpy : py ≠ oy + r := by omega
      simp [rowMask, hpy]
    case union =>
      intro px py _ _
      by_cases hpy : py = oy + r
      · subst hpy; simp [rowMask, rowsMask]
      · by_cases hlow : oy + r ≤ py
        · have hsub : py - (oy + r) = py - (oy + (r + 1)) + 1 := by omega
          have hstart : oy + r ≤ py ↔ oy + (r + 1) ≤ py := by omega
          have hend : py < oy + r + (rest.length + 1) ↔ py < oy + (r + 1) + rest.length := by omega
          simp only [rowMask, rowsMask, hpy, hsub, hstart, hend, List.getD_cons_succ, List.length_cons, decide_false,
            Bool.and_false, Bool.false_and, Bool.false_or]
        · simp [rowMask, rowsMask, hpy, hlow]
          omega

variable {s t : State}

/-- R212: the mask of the sprite bytes that `DXYN` reads is the sprite of the spec. -/
theorem rowsMask_eq_spriteCovers (x y n : Nibble) (hfit : n = 0 ∨ blockBase s + n.toNat ≤ s.cfg.memSize) (px py : Nat) :
    rowsMask (originX (s.reg x)) (originY (s.reg y)) (s.readBlock (blockBase s) n.toNat) 0 px py =
      spriteCovers s x y n px py := by
  simp only [rowsMask, spriteCovers, originX, originY, Nat.add_zero, State.readBlock_length, spriteBit]
  by_cases hrow : (s.reg y).toNat % 32 ≤ py ∧ py < (s.reg y).toNat % 32 + n.toNat
  · have hbyte : s.memRead (s.i.toNat + (py - (s.reg y).toNat % 32)) =
        some ((s.readBlock (blockBase s) n.toNat).getD (py - (s.reg y).toNat % 32) 0) := by
      have hroom : s.i.toNat + n.toNat ≤ s.cfg.memSize :=
        hfit.resolve_left fun h => by subst h; simp at hrow; omega
      rw [State.readBlock_getD (by omega)]
      exact State.memRead_of_lt (by omega)
    rw [hbyte, Option.getD_some]
    rfl
  · simp only [not_and_or, Nat.not_le, Nat.not_lt] at hrow
    obtain h | h := hrow
    · simp [Nat.not_le.2 h]
    · simp [Nat.not_lt.2 h]

/-! ## The statements -/

/-- R212: the drawing of `DXYN` toggles the pixels of its sprite, from a screen with no collision noted. -/
theorem drawSprite_toggles (x y n : Nibble) (hfit : n = 0 ∨ blockBase s + n.toNat ≤ s.cfg.memSize) :
    Drawing.Toggles (spriteCovers s x y n) ⟨s.fb, false⟩ (drawSprite x y n s) :=
  (Drawing.rows_toggle _ _ _ 0 _).congr fun px py _ _ => rowsMask_eq_spriteCovers x y n hfit px py

/-- R190, R212: a sprite that fits is not fatal. -/
theorem fatalCondition_drw_of_fit (x y : Nibble) {n : Nibble} (hfit : n = 0 ∨ blockBase s + n.toNat ≤ s.cfg.memSize) :
    fatalCondition s (.drw x y n) = none :=
  blockFault_eq_none.2 (hfit.imp_left fun h => by rw [h]; rfl)

/-- R212: each pixel of the grid after a drawing. -/
theorem pixel_commit_drw (x y n : Nibble) (hfit : n = 0 ∨ blockBase s + n.toNat ≤ s.cfg.memSize) {px py : Nat}
    (hx : px < 64) (hy : py < 32) :
    (s.commit (.drw x y n)).pixel px py = (s.pixel px py ^^ spriteCovers s x y n px py) :=
  (drawSprite_toggles x y n hfit).pixels px py hx hy

/-- Settles O48: on the grid the drawing toggles the pixels of the sprite; a block that does not fit is fatal. -/
theorem drawXorsTheClippedSprite : Obligations.DrawXorsTheClippedSprite := by
  intro x y n s
  refine ⟨decodeWord_encode (.drw x y n), fun hfit => ?draws, fun hn hover => ?fatal⟩
  case draws =>
    exact ⟨_, exec_of_none (fatalCondition_drw_of_fit x y hfit), fun px py hx hy => pixel_commit_drw x y n hfit hx hy,
      commit_frame (.drw x y n) s⟩
  case fatal =>
    have hrows : n.toNat ≠ 0 := fun h => hn (BitVec.eq_of_toNat_eq h)
    exact exec_fatal_toNat (i := .drw x y n) (blockFault_eq_some hrows hover)

/-- R213: a collision is noted exactly when a pixel was on before and is off after. -/
theorem collision_iff_turned_off (x y n : Nibble) (hfit : n = 0 ∨ blockBase s + n.toNat ≤ s.cfg.memSize) :
    (drawSprite x y n s).collision = true ↔
      ∃ px py, s.pixel px py = true ∧ (s.commit (.drw x y n)).pixel px py = false := by
  rw [(drawSprite_toggles x y n hfit).collision]
  constructor
  · rintro (h | ⟨px, py, hx, hy, hset, hlit⟩)
    · cases h
    · have hlit' : s.pixel px py = true := hlit
      exact ⟨px, py, hlit, by rw [pixel_commit_drw x y n hfit hx hy, hlit', hset]; rfl⟩
  · rintro ⟨px, py, hlit, hoff⟩
    have hgrid : px < 64 ∧ py < 32 := by
      by_contra hno
      rw [State.pixel, Frame.get_off_grid s.fb hno] at hlit
      cases hlit
    rw [pixel_commit_drw x y n hfit hgrid.1 hgrid.2, hlit, Bool.true_xor, Bool.not_eq_false'] at hoff
    exact .inr ⟨px, py, hgrid.1, hgrid.2, hoff, hlit⟩

/-- Settles O49: VF is the collision, which the toggled set decides. -/
theorem collisionFlagSaysAPixelWasTurnedOff : Obligations.CollisionFlagSaysAPixelWasTurnedOff := by
  intro x y n s hfit
  refine ⟨_, exec_of_none (fatalCondition_drw_of_fit x y hfit), fun hoff => ?_, fun hnone => ?_⟩ <;>
    rw [vf_commit_drw]
  · rw [(collision_iff_turned_off x y n hfit).2 hoff]
    rfl
  · rw [Bool.eq_false_iff.2 fun h => hnone ((collision_iff_turned_off x y n hfit).1 h)]
    rfl

/-- R211: the sprite depends on the two registers, I and memory alone. -/
theorem spriteCovers_congr {x y : Nibble} (n : Nibble) (hx : t.reg x = s.reg x) (hy : t.reg y = s.reg y)
    (hi : t.i = s.i) (hmem : ∀ a, t.memRead a = s.memRead a) (px py : Nat) :
    spriteCovers t x y n px py = spriteCovers s x y n px py := by
  simp only [spriteCovers, hx, hy, hi, hmem]

/-- Settles O50: the first drawing leaves what the sprite depends on, so the second toggles the same pixels back. -/
theorem drawingTwiceRestoresTheFramebuffer : Obligations.DrawingTwiceRestoresTheFramebuffer := by
  intro x y n s t hx hy _ hfit hdraw
  cases (exec_of_none (fatalCondition_drw_of_fit x y hfit)).symm.trans hdraw
  have hframe := commit_frame (.drw x y n) s
  have hsame := spriteCovers_congr n (hframe.reg x (by simpa [mayWrite] using hx))
    (hframe.reg y (by simpa [mayWrite] using hy)) (hframe.index (by simp [mayWrite])) (hframe.mem (by simp [mayWrite]))
  have hfit' : n = 0 ∨ blockBase (s.commit (.drw x y n)) + n.toNat ≤ (s.commit (.drw x y n)).cfg.memSize := hfit
  refine ⟨_, exec_of_none (fatalCondition_drw_of_fit x y hfit'), fun px py => ?_⟩
  by_cases hgrid : px < 64 ∧ py < 32
  · rw [pixel_commit_drw x y n hfit' hgrid.1 hgrid.2, pixel_commit_drw x y n hfit hgrid.1 hgrid.2, hsame,
      Bool.xor_assoc, Bool.xor_self, Bool.xor_false]
  · rw [State.pixel, State.pixel, Frame.get_off_grid _ hgrid, Frame.get_off_grid _ hgrid]

end Sys2Proof.Machine
end
